-- ==== Sys2Proof/Word.lean ====
section
/-! DEFINITION. The word of the host port and the node index that means "no node". -/

namespace Sys2Proof

/-- Every register and every bus word is 32 bits wide, bit 0 least significant (R7). -/
abbrev Word := BitVec 32

/-- A byte of a byte-addressed platform bus (R71). -/
abbrev Byte := BitVec 8

/-- `NIL` (R5): the node index that means "no node". -/
abbrev nilIndex : Word := 0xFFFFFFFF#32

/-- A quantity put into a 32-bit word, upper bits zero (R7 `zext_32`). -/
abbrev wordOf (n : Nat) : Word := BitVec.ofNat 32 n

end Sys2Proof
end

