-- ==== Sys2Proof/Config.lean ====
section
/-! DEFINITION. The parameters of an instance (R5), their derived constants, and the free values of the model. -/

namespace Sys2Proof

/-- The parameters that fix an instance (R5). `BUS`, the signal-level protocol, is below the level of the
model (R60; log 13). -/
structure Config where
  /-- `SYM_W`: width of a symbol in bits. -/
  symW : Nat
  /-- `W_W`: width of a count or weight in bits. -/
  wW : Nat
  /-- `MAXLEAF`: largest number of distinct symbols of one tree. -/
  maxLeaf : Nat
  /-- `TEXT_MAX`: capacity of TEXT in symbols. -/
  textMax : Nat
  /-- `BITS_MAX`: capacity of BITS in bits. -/
  bitsMax : Nat
  /-- `OUT_MAX`: capacity of OUT in symbols. -/
  outMax : Nat
deriving DecidableEq, Repr

namespace Config

/-- `NSYMV = 2^SYM_W`, the number of symbol values (R5). -/
def nsymv (c : Config) : Nat := 2 ^ c.symW

/-- `WMAX = 2^W_W - 1`, the largest weight (R5). -/
def wmax (c : Config) : Nat := 2 ^ c.wW - 1

/-- `NODE_MAX = 2*MAXLEAF - 1`, the entries of the node arena (R5). -/
def nodeMax (c : Config) : Nat := 2 * c.maxLeaf - 1

/-- `CODE_MAX = max(1, MAXLEAF - 1)`, the longest code in bits (R5). -/
def codeMax (c : Config) : Nat := max 1 (c.maxLeaf - 1)

/-- The test configuration T8 (R5). -/
def t8 : Config :=
  { symW := 8, wW := 32, maxLeaf := 256, textMax := 65535, bitsMax := 65535, outMax := 65535 }

/-- The small configuration T2 of 95_test_vectors.md (T10). -/
def t2 : Config :=
  { symW := 2, wW := 3, maxLeaf := 2, textMax := 7, bitsMax := 4, outMax := 4 }

/-- The free values (R10 `UNSPEC`): draw number `k` is some word, and nothing says which. The machine takes
draw 0, 1, 2, … in turn (the counter `State.draws`), so two reads of one `UNSPEC` element may differ
(log 4). -/
opaque freeWord : Nat → Word

end Config

end Sys2Proof
end

