-- ==== Sys2Proof/Syntax.lean ====
section
/-! DEFINITION. The commands, the one command format, and the events of the host. -/

namespace Sys2Proof

/-- The eight commands of the command table (R92), one constructor per row. A command has no operand field:
every operand is implicit (R90, R93). -/
inductive Instr where
  | nop
  | count
  | build
  | gencodes
  | encode
  | decode
  | clrerr
  | clear
deriving DecidableEq, Repr

/-- The command format CMDW (R90): `ZERO` is bits 31:8, `OPC` is bits 7:0. -/
structure Cmdw where
  zero : BitVec 24
  opc : BitVec 8
deriving DecidableEq, Repr

/-- What the host can do to the block (R60): a transaction, at a byte offset and with a width in bits, or
the reset input (R230). `cutByReset v` is a write of `v` to `CMD` whose command the reset input cuts short
(R231). The offset and the width are plain numbers so that every refused access can be written down
(log 17). -/
inductive HostEvent where
  | read (off width : Nat)
  | write (off width : Nat) (v : Word)
  | reset
  | cutByReset (v : Word)
deriving DecidableEq, Repr

end Sys2Proof
end

