-- ==== Sys2Proof/WellFormed.lean ====
section
/-! DEFINITION. What is checked of a term before the machine gives it a meaning: the constraints on the
parameters, the `ZERO` field of a command word, and the commands (which have no operand to check). -/

namespace Sys2Proof

/-- The constraints of R5 on the parameters of an instance. -/
abbrev Config.Valid (c : Config) : Prop :=
  (1 ≤ c.symW ∧ c.symW ≤ 31) ∧
  (1 ≤ c.wW ∧ c.wW ≤ 32) ∧
  (1 ≤ c.maxLeaf ∧ c.maxLeaf ≤ c.nsymv) ∧
  (1 ≤ c.textMax ∧ c.textMax ≤ c.wmax ∧ c.textMax ≤ 2 ^ 32 - 1) ∧
  (1 ≤ c.bitsMax ∧ c.bitsMax ≤ 2 ^ 32 - 1) ∧
  (1 ≤ c.outMax ∧ c.outMax ≤ 2 ^ 32 - 1)

/-- The check of the format CMDW that no opcode table is needed for: "must be `0x000000`" (R90). -/
def Cmdw.wellFormed (f : Cmdw) : Bool := f.zero == 0#24

/-- A command has no operand field, no immediate and no mode bit (R90), so there is nothing in it that could
be ill formed. -/
def Instr.wellFormed : Instr → Bool
  | .nop => true
  | .count => true
  | .build => true
  | .gencodes => true
  | .encode => true
  | .decode => true
  | .clrerr => true
  | .clear => true

end Sys2Proof
end

