-- ==== Sys2Proof/Decode.lean ====
section
/-! DEFINITION. The decoder of command words, total and rejecting by name, and the encoder after it. The decoder is
written from the match and mask columns of R92, the encoder from the fields of R90. -/

namespace Sys2Proof

/-- Why a word is no command (R94), or some bytes no command word (R95: one length, 32 bits). -/
inductive DecodeReject where
  /-- a bit of 31:8 is set -/
  | zeroField (v : Word)
  /-- bits 31:8 are zero and `OPC` is none of the eight -/
  | reservedOpcode (opc : BitVec 8)
  /-- not the four bytes of a word -/
  | notOneWord (bytes : Nat)
deriving DecidableEq, Repr

/-- One row of the command table (R92). -/
structure OpcodeRow where
  instr : Instr
  matchBits : Word
  mask : Word
deriving DecidableEq, Repr

/-- The command table (R92), in its order. -/
def opcodeRows : List OpcodeRow :=
  [ ⟨.nop, 0x00000000#32, 0xFFFFFFFF#32⟩,
    ⟨.count, 0x00000001#32, 0xFFFFFFFF#32⟩,
    ⟨.build, 0x00000002#32, 0xFFFFFFFF#32⟩,
    ⟨.gencodes, 0x00000003#32, 0xFFFFFFFF#32⟩,
    ⟨.encode, 0x00000004#32, 0xFFFFFFFF#32⟩,
    ⟨.decode, 0x00000005#32, 0xFFFFFFFF#32⟩,
    ⟨.clrerr, 0x0000000E#32, 0xFFFFFFFF#32⟩,
    ⟨.clear, 0x0000000F#32, 0xFFFFFFFF#32⟩ ]

/-- The fields of a command word (R90). -/
def Cmdw.ofWord (v : Word) : Cmdw := ⟨v.extractLsb' 8 24, v.extractLsb' 0 8⟩

/-- The word of the two fields, `ZERO` the more significant (R90). -/
def Cmdw.toWord (f : Cmdw) : Word := f.zero ++ f.opc

/-- The command a word encodes (R91, R92), or why it is illegal (R94). -/
def decodeWord (v : Word) : Except DecodeReject Instr :=
  match opcodeRows.find? (fun r => v &&& r.mask == r.matchBits) with
  | some r => .ok r.instr
  | none =>
    if (Cmdw.ofWord v).wellFormed then .error (.reservedOpcode (Cmdw.ofWord v).opc)
    else .error (.zeroField v)

/-- On a byte-addressed bus the byte at offset `off + k` carries bits `8k+7 : 8k` of the word (R71). -/
def bytesOfWord (v : Word) : List Byte :=
  [v.extractLsb' 0 8, v.extractLsb' 8 8, v.extractLsb' 16 8, v.extractLsb' 24 8]

/-- The word that four bytes carry (R71), the byte at the lowest offset first. -/
def wordOfBytes (b0 b1 b2 b3 : Byte) : Word := b3 ++ b2 ++ b1 ++ b0

/-- The decoder on the bytes of a command word, lowest offset first. -/
def decodeBytes : List Byte → Except DecodeReject Instr
  | [b0, b1, b2, b3] => decodeWord (wordOfBytes b0 b1 b2 b3)
  | bs => .error (.notOneWord bs.length)

/-- The word of `nbits` bits `w`, every bit above `nbits` zero; none where it is longer than a command
word (R95). -/
def tableWord (nbits w : Nat) : Option Word :=
  if w % 2 ^ nbits < 2 ^ 32 then some (wordOf (w % 2 ^ nbits)) else none

/-- The instruction the decoder reads from an instruction word numbered as spec/opcode_table.json numbers
it. -/
def decodeTableWord (nbits w : Nat) : Option Instr :=
  match tableWord nbits w with
  | none => none
  | some v =>
    match decodeBytes (bytesOfWord v) with
    | .ok i => some i
    | .error _ => none

/-- The `OPC` field of each command (R92, D4). -/
def Instr.opc : Instr → BitVec 8
  | .nop => 0x00#8
  | .count => 0x01#8
  | .build => 0x02#8
  | .gencodes => 0x03#8
  | .encode => 0x04#8
  | .decode => 0x05#8
  | .clrerr => 0x0E#8
  | .clear => 0x0F#8

/-- The word of a command: `ZERO` zero, `OPC` the command's (R90). -/
def encode (i : Instr) : Word := Cmdw.toWord ⟨0#24, i.opc⟩

end Sys2Proof
end

