-- ==== Sys2Proof/Machine/State.lean ====
section
/-! DEFINITION. The state of the block as plain data (R20), the reasons it can stop, and reset. -/

namespace Sys2Proof.Machine

/-- A memory of elements of type `α`, each reached whole by its index (R71, R74): the elements that something
has written since reset, as pairs of index and element, indices strictly rising. An index that is not
listed has no value: a read of it is a free draw (R80; log 5). -/
abbrev Memory (α : Type) := List (Nat × α)

/-- An entry of the NODE arena (R45). -/
structure Node where
  /-- `W`: the count of a leaf, the sum of the children's weights of an internal node. -/
  w : Nat
  /-- `LEAF` -/
  leaf : Bool
  /-- `SYM`: the symbol of a leaf, 0 for an internal node. -/
  sym : Nat
  /-- `LEFT`: arena index of the left child, `NIL` for a leaf. -/
  left : Word
  /-- `RIGHT`: arena index of the right child, `NIL` for a leaf. -/
  right : Word
deriving DecidableEq, Repr

/-- The code of one symbol (R100): its digits, `C[0]` first, `false` = 0 = left. Its length is `LEN`
(log 16). -/
abbrev Code := List Bool

/-- The error latch (R24 to R26). -/
structure ErrLatch where
  /-- `ERRCODE` -/
  code : BitVec 4
  /-- `ERRSUB` -/
  sub : BitVec 4
  /-- `ERROP` -/
  op : BitVec 8
  /-- `ERRPOS` -/
  pos : Word
  /-- `ERRSYM` -/
  sym : Word
deriving DecidableEq, Repr

/-- The error kinds (R201). -/
inductive ErrKind where
  | emptyAlphabet
  | unknownSymbol
  | malformedStream
  | notReady
  | capacityExceeded
  | illegalCommand
deriving DecidableEq, Repr

/-- The hidden working state of the engines (R47, R48). A position or a count in it is a number: none wraps
(R14; log 14). -/
structure Work where
  /-- `INQ`: the indices whose bit is 1 (log 15). -/
  inq : List Nat
  /-- `QCNT` -/
  qcnt : Nat
  /-- `TPOS` -/
  tpos : Nat
  /-- `BPOS` -/
  bpos : Nat
  /-- `OPOS` -/
  opos : Nat
  /-- `SCAN` -/
  scan : Nat
  /-- `TOTAL` -/
  total : Nat
  /-- `QA` -/
  qa : Nat
  /-- `QB` -/
  qb : Nat
  /-- `NEXT` -/
  next : Nat
  /-- `PATH`: its digits in use, root first. -/
  path : List Bool
  /-- `DEPTH` -/
  depth : Nat
  /-- `STK`: the pending right children, the latest first. -/
  stk : List Word
deriving DecidableEq, Repr

/-- The two responses of the port (R60). -/
inductive RespKind where
  | ok
  | refused
deriving DecidableEq, Repr

/-- A response: a read also returns 32 bits of data (R60). -/
structure Response where
  kind : RespKind
  data : Option Word
deriving DecidableEq, Repr

/-- The state (R20). `cfg`, `host`, `resp` and `draws` are the model's own fields: the parameters and the host
are "not state, but parameters of the step relation" (R20), and stand here because a step is a function of
State alone (logs 1, 2, 4, 11). -/
structure State where
  /-- the parameters of the instance (R5); no step changes them -/
  cfg : Config
  /-- `ERR`, `ERRPOS`, `ERRSYM` (R24 to R26) -/
  err : ErrLatch
  /-- `TLEN` (R27) -/
  tlen : Word
  /-- `BLEN` (R28) -/
  blen : Word
  /-- `OLEN` (R29) -/
  olen : Word
  /-- `NLEAF` (R31) -/
  nleaf : Word
  /-- `NNODE` (R32) -/
  nnode : Word
  /-- `ROOT` (R33) -/
  root : Word
  /-- `CUR` (R34) -/
  cur : Word
  /-- `SEL` (R35) -/
  sel : Word
  /-- `IDX` (R36) -/
  idx : Word
  /-- `SUB` (R37) -/
  sub : Word
  /-- `TREE_VALID` (R39) -/
  treeValid : Bool
  /-- `CODES_VALID` (R39) -/
  codesValid : Bool
  /-- FREQ (R41) -/
  freq : Memory Nat
  /-- TEXT (R42) -/
  text : Memory Nat
  /-- BITS (R43) -/
  bits : Memory Bool
  /-- OUT (R44) -/
  out : Memory Nat
  /-- NODE (R45) -/
  node : Memory Node
  /-- CODE (R46): the entries whose `VALID` bit is 1 (log 16) -/
  code : Memory Code
  /-- hidden engine state (R47, R48) -/
  work : Work
  /-- the host's events still to come, the next one first (R60; log 2) -/
  host : List HostEvent
  /-- the response of the last transaction (R60; log 11) -/
  resp : Option Response
  /-- how many free values have been drawn (log 4) -/
  draws : Nat
deriving DecidableEq, Repr

/-- Why the machine stops. -/
inductive Fault where
  /-- Raised by GENCODES alone, when a walk of a tree stands on an internal node with all `CODE_MAX` digits
  of `PATH` in use. It cannot happen while the tree invariant R51 holds (R146 (c)), and every run from reset
  keeps R51; in a state that breaks R51 the spec gives the walk no effect. Safe (log 9). -/
  | pathOverflow
deriving DecidableEq, Repr

/-- Why an instruction has no meaning. -/
inductive Refusal where
  /-- Raised by an arm of `exec` for an instruction without a meaning yet; no arm of this model is one. Safe. -/
  | notModelled (mnemonic : String)
deriving DecidableEq, Repr

/-- No error latched (R24). -/
def ErrLatch.none : ErrLatch := ⟨0#4, 0#4, 0#8, 0#32, 0#32⟩

/-- The hidden state after reset. DESIGN CHOICE: the spec leaves it `UNSPEC`; each command writes what it
reads of it before it reads it (R48; log 6). -/
def Work.reset : Work := ⟨[], 0, 0, 0, 0, 0, 0, 0, 0, 0, [], 0, []⟩

/-- The state that asserting the reset input leaves in an instance (R49, R230): every register at its reset
value (R21), every memory element `UNSPEC`. `host` and `draws` are the model's own. -/
def State.resetOf (cfg : Config) (host : List HostEvent) (draws : Nat) : State :=
  { cfg := cfg
    err := ErrLatch.none
    tlen := 0#32
    blen := 0#32
    olen := 0#32
    nleaf := 0#32
    nnode := 0#32
    root := nilIndex
    cur := nilIndex
    sel := 0#32
    idx := 0#32
    sub := 0#32
    treeValid := false
    codesValid := false
    freq := []
    text := []
    bits := []
    out := []
    node := []
    code := []
    work := Work.reset
    host := host
    resp := Option.none
    draws := draws }

/-- The machine right after reset, in the test configuration T8 of R5, with nothing asked of it yet.
DESIGN CHOICE: the instance (log 1). -/
def State.reset : State := State.resetOf Config.t8 [] 0

end Sys2Proof.Machine
end

