-- ==== Sys2Proof/Machine/Ops.lean ====
section
/-! DEFINITION. The shared operations: memories, free draws, bounded loops, the register map, taking an error and
returning from it, the acceptance test of a command, and the answers of the port. -/

namespace Sys2Proof.Machine

/-- The outcome of a step or of a command. -/
abbrev Result := Host.Outcome State Fault Refusal

/-! ### Memories -/

/-- The element at an index, if something has written it. -/
def Memory.read {α : Type} : Memory α → Nat → Option α
  | [], _ => none
  | (j, a) :: m, k => if j = k then some a else Memory.read m k

/-- Write one element, keeping the indices strictly rising. -/
def Memory.write {α : Type} : Memory α → Nat → α → Memory α
  | [], k, v => [(k, v)]
  | (j, a) :: m, k, v =>
    if j = k then (k, v) :: m
    else if k < j then (k, v) :: (j, a) :: m
    else (j, a) :: Memory.write m k v

/-- The canonical form: indices strictly rising. (An unlisted index has no value, so no entry can equal it.) -/
def Memory.wf {α : Type} : Memory α → Bool
  | [] => true
  | [_] => true
  | (j, _) :: (k, b) :: m => decide (j < k) && Memory.wf ((k, b) :: m)

/-- The elements `0 .. n-1`, all equal to `v`: what a clearing loop leaves (R112, R178). -/
def Memory.filled {α : Type} (n : Nat) (v : α) : Memory α := (List.range n).map (fun i => (i, v))

/-- Write a run of elements from index `k` upwards. -/
def Memory.writeRun {α : Type} (m : Memory α) (k : Nat) : List α → Memory α
  | [] => m
  | v :: vs => Memory.writeRun (m.write k v) (k + 1) vs

/-! ### Free draws (R10; log 4) -/

/-- The next free value, and the state in which it has been drawn. -/
def drawWord (s : State) : Word × State :=
  (Config.freeWord s.draws, { s with draws := s.draws + 1 })

/-- One element of a memory, read by an engine or by the data port: what was last written there or, where
nothing has written it, a free draw brought to the element's form by `free` (R80; log 5). -/
def readElem {α : Type} (m : Memory α) (free : Word → α) (k : Nat) (s : State) : α × State :=
  match m.read k with
  | some v => (v, s)
  | none => (free (drawWord s).1, (drawWord s).2)

/-! ### Bounded loops (R11, R243) -/

/-- How a turn of a loop ends: the command goes on, or it has raised (R10). -/
inductive Pass where
  | running (s : State)
  | raised (s : State)
deriving DecidableEq, Repr

/-- The state a turn leaves, however it ends. -/
def Pass.state : Pass → State
  | .running s => s
  | .raised s => s

/-- At most `n` turns, up to the first raise. -/
def Pass.loop (turn : State → Pass) : Nat → State → Pass
  | 0, s => .running s
  | n + 1, s =>
    match turn s with
    | .running t => Pass.loop turn n t
    | .raised t => .raised t

/-! ### The register map (R21) -/

/-- The sixteen registers (R21). -/
inductive Reg where
  | cmd | status | err | errpos | errsym | tlen | blen | olen
  | nleaf | nnode | root | cur | sel | idx | sub | data
deriving DecidableEq, Repr

/-- The register at each byte offset (R21). -/
def Reg.offset : Reg → Nat
  | .cmd => 0x00
  | .status => 0x04
  | .err => 0x08
  | .errpos => 0x0C
  | .errsym => 0x10
  | .tlen => 0x14
  | .blen => 0x18
  | .olen => 0x1C
  | .nleaf => 0x20
  | .nnode => 0x24
  | .root => 0x28
  | .cur => 0x2C
  | .sel => 0x30
  | .idx => 0x34
  | .sub => 0x38
  | .data => 0x3C

/-- The registers in the order of their offsets (R21). -/
def Reg.all : List Reg :=
  [.cmd, .status, .err, .errpos, .errsym, .tlen, .blen, .olen,
   .nleaf, .nnode, .root, .cur, .sel, .idx, .sub, .data]

/-- The register an access reaches: a 32-bit access at an offset that is a multiple of 4 and below `0x40`
(R61, R72); none otherwise (R62 rows 1 and 2). -/
def Reg.at (off width : Nat) : Option Reg :=
  if off % 4 = 0 ∧ width = 32 ∧ off < 0x40 then Reg.all[off / 4]? else none

/-! ### Errors (R200 to R212) -/

/-- The codes of the kinds (R201). -/
def ErrKind.code : ErrKind → BitVec 4
  | .emptyAlphabet => 1#4
  | .unknownSymbol => 2#4
  | .malformedStream => 3#4
  | .notReady => 4#4
  | .capacityExceeded => 5#4
  | .illegalCommand => 6#4

/-- Error entry (R209): `raise kind(sub, pos, sym)` inside the command whose low byte is `op`. Nothing else is
saved and control goes nowhere. -/
def raise (op : BitVec 8) (kind : ErrKind) (sub : BitVec 4) (pos : Word) (sym : Nat) (s : State) : State :=
  { s with err := ⟨kind.code, sub, op, pos, wordOf sym⟩ }

/-- The return from an error (R177, R212): the five error fields are cleared and nothing else. -/
def clearErr (s : State) : State := { s with err := ErrLatch.none }

/-- An error is latched (R24). -/
abbrev State.latched (s : State) : Prop := s.err.code ≠ 0#4

/-! ### Answers of the port (R60, R62) -/

/-- A write that was done: `OK`. -/
def answerWrite (s : State) : State := { s with resp := some ⟨.ok, none⟩ }

/-- A read that was done: `OK` and the data. -/
def answerRead (d : Word) (s : State) : State := { s with resp := some ⟨.ok, some d⟩ }

/-- A refused write: `REFUSED`, and no other change (R62; log 3). -/
def refuseWrite (s : State) : State := { s with resp := some ⟨.refused, none⟩ }

/-- A refused read: `REFUSED`, and no other change; its data is a free draw (R62, U9). -/
def refuseRead (s : State) : State :=
  { (drawWord s).2 with resp := some ⟨.refused, some (drawWord s).1⟩ }

/-! ### Commands (R91) -/

/-- A command has finished, with success or with a latched error: its `CMD` write returns `OK` (R70). -/
def finish (s : State) : Result := .next (answerWrite s)

/-- The acceptance test: while an error is latched a command is refused (R91, R211). NOP, CLRERR and CLEAR do
not take it. -/
def accepted (s : State) (run : State → Result) : Result :=
  if s.latched then .next (refuseWrite s) else run s

/-- A `CMD` write of a word that is no command (R94, R208). -/
def illegalCommand (v : Word) (s : State) : Result :=
  accepted s (fun s => finish (raise (v.extractLsb' 0 8) .illegalCommand 0#4 v 0 s))

/-- Asserting the reset input (R230): the reset state of this instance. The host's further events and the
draw counter are not the block's and go on (log 11). -/
def resetInput (s : State) : State := State.resetOf s.cfg s.host s.draws

end Sys2Proof.Machine
end

