-- ==== Sys2Proof/Machine/Flags.lean ====
section
/-! DEFINITION. The flags and the two registers that are put together from fields: STATUS (R23, R39) and ERR (R24). -/

namespace Sys2Proof.Machine

/-- `SINGLE` (R23): computed, `TREE_VALID = 1 and NLEAF = 1`. -/
def single (s : State) : Bool := s.treeValid && s.nleaf == 1#32

/-- `ERRF` (R23): computed, an error is latched. -/
def errf (s : State) : Bool := s.err.code != 0#4

/-- `STATUS` (R23): bit 0 `TREE_VALID`, bit 1 `CODES_VALID`, bit 2 `SINGLE`, bit 3 `ERRF`, the rest 0. -/
def statusWord (s : State) : Word :=
  0#28 ++ BitVec.ofBool (errf s) ++ BitVec.ofBool (single s) ++ BitVec.ofBool s.codesValid ++
    BitVec.ofBool s.treeValid

/-- `ERR` (R24): `ERRCODE` in bits 3:0, `ERRSUB` in 7:4, `ERROP` in 15:8, the rest 0. -/
def errWord (s : State) : Word := 0#16 ++ s.err.op ++ s.err.sub ++ s.err.code

/-- The tree and the codes are withdrawn and the cursor is taken off the tree: the start of BUILD (R121). -/
def withdrawTree (s : State) : State :=
  { s with
    treeValid := false
    codesValid := false
    nleaf := 0#32
    nnode := 0#32
    root := nilIndex
    cur := nilIndex }

end Sys2Proof.Machine
end

