-- ==== Sys2Proof/Machine/Operands.lean ====
section
/-! DEFINITION. The implicit operands of the commands (R93): one element of each memory, read with a free draw where
nothing has written it (R80), and the spaces and fields of the data port (R96, R97). -/

namespace Sys2Proof.Machine

/-! ### Elements as the engines read them -/

/-- A free value as a count of `W_W` bits. -/
def freeCount (c : Config) (d : Word) : Nat := d.toNat % 2 ^ c.wW

/-- A free value as a symbol of `SYM_W` bits. -/
def freeSymbol (c : Config) (d : Word) : Nat := d.toNat % c.nsymv

/-- A free value as one bit. -/
def freeBit (d : Word) : Bool := d.getLsbD 0

/-- `FREQ[k]` (R41). -/
def readFreq (k : Nat) (s : State) : Nat × State := readElem s.freq (freeCount s.cfg) k s

/-- `TEXT[k]` (R42). -/
def readText (k : Nat) (s : State) : Nat × State := readElem s.text (freeSymbol s.cfg) k s

/-- `BITS[k]` (R43). -/
def readBits (k : Nat) (s : State) : Bool × State := readElem s.bits freeBit k s

/-- `OUT[k]` (R44). -/
def readOut (k : Nat) (s : State) : Nat × State := readElem s.out (freeSymbol s.cfg) k s

/-- A record all of whose fields are free values, from draw `k` on. -/
def freeNode (c : Config) (k : Nat) : Node :=
  { w := freeCount c (Config.freeWord k)
    leaf := freeBit (Config.freeWord (k + 1))
    sym := freeSymbol c (Config.freeWord (k + 2))
    left := Config.freeWord (k + 3)
    right := Config.freeWord (k + 4) }

/-- `NODE[k]` (R45), all five fields at once; where nothing has written the entry each field is a free draw of
its own. -/
def readNode (k : Nat) (s : State) : Node × State :=
  match s.node.read k with
  | some nd => (nd, s)
  | none => (freeNode s.cfg s.draws, { s with draws := s.draws + 5 })

/-- The code of symbol `k`, none when `CODE[k].VALID = 0` (R46). -/
def lookupCode (k : Nat) (s : State) : Option Code := s.code.read k

/-! ### Elements as the engines write them -/

/-- `FREQ[k] <- v`. -/
def writeFreq (k v : Nat) (s : State) : State := { s with freq := s.freq.write k v }

/-- `OUT[k] <- x`. -/
def writeOut (k x : Nat) (s : State) : State := { s with out := s.out.write k x }

/-- `NODE[k] <- nd`. -/
def writeNode (k : Nat) (nd : Node) (s : State) : State := { s with node := s.node.write k nd }

/-- `CODE[x] <- {VALID 1, LEN |c|, C c}`. -/
def writeCode (x : Nat) (c : Code) (s : State) : State := { s with code := s.code.write x c }

/-- `BITS[k], BITS[k+1], … <- ds`. -/
def writeBitRun (k : Nat) (ds : List Bool) (s : State) : State := { s with bits := s.bits.writeRun k ds }

/-! ### The spaces of the data port -/

/-- The spaces behind `DATA` (R63, R96). -/
inductive Space where
  | freq | text | bits | out | node | codelen | codebit
deriving DecidableEq, Repr

/-- The `SEL` code of a space (R96). -/
def Space.sel : Space → Word
  | .freq => 1#32
  | .text => 2#32
  | .bits => 3#32
  | .out => 4#32
  | .node => 5#32
  | .codelen => 6#32
  | .codebit => 7#32

/-- The space a `SEL` value names; 0, 8 and above name none (R96). -/
def Space.ofSel (v : Word) : Option Space :=
  if v = 1#32 then some .freq
  else if v = 2#32 then some .text
  else if v = 3#32 then some .bits
  else if v = 4#32 then some .out
  else if v = 5#32 then some .node
  else if v = 6#32 then some .codelen
  else if v = 7#32 then some .codebit
  else none

/-- How many elements a space has: what `IDX` must be below (R63). -/
def Space.size (c : Config) : Space → Nat
  | .freq => c.nsymv
  | .text => c.textMax
  | .bits => c.bitsMax
  | .out => c.outMax
  | .node => c.nodeMax
  | .codelen => c.nsymv
  | .codebit => c.nsymv

/-- What `SUB` must be below; none where it is ignored (R62 row 6, R63, R67). -/
def Space.subLimit (c : Config) : Space → Option Nat
  | .freq => none
  | .text => none
  | .bits => none
  | .out => none
  | .node => some 5
  | .codelen => none
  | .codebit => some c.codeMax

/-- What a value written through `DATA` must be below; none where the host may not write (R62 rows 7 and 8,
R63 to R69). -/
def Space.writeLimit (c : Config) : Space → Option Nat
  | .freq => some (c.wmax + 1)
  | .text => some (2 ^ c.symW)
  | .bits => some 2
  | .out => none
  | .node => none
  | .codelen => none
  | .codebit => none

/-- The field of a NODE record that `SUB` selects, in `DATA` format: upper bits 0 (R67, R97). -/
def Node.field (nd : Node) (sub : Nat) : Word :=
  match sub with
  | 0 => wordOf nd.w
  | 1 => wordOf nd.leaf.toNat
  | 2 => wordOf nd.sym
  | 3 => nd.left
  | _ => nd.right

end Sys2Proof.Machine
end

