-- ==== Sys2Proof/Machine/Builder.lean ====
section
/-! DEFINITION. The tree builder, the priority-queue merge engine, BUILD (41_tree_builder.md). -/

namespace Sys2Proof.Machine

/-! ### The queue (R13, R47, R125) -/

/-- The weight of a queued node. Every queued node has been written by this BUILD, so the entry is listed. -/
def weightOf (m : Memory Node) (i : Nat) : Nat :=
  match m.read i with
  | some nd => nd.w
  | none => 0

/-- The queue order (R13): the composite key (weight, index), lexicographically. -/
def before (m : Memory Node) (a b : Nat) : Bool :=
  decide (weightOf m a < weightOf m b) || (decide (weightOf m a = weightOf m b) && decide (a < b))

/-- The least of `best` and the rest of the queue (R125). -/
def leastOf (m : Memory Node) : Nat → List Nat → Nat
  | best, [] => best
  | best, i :: is => leastOf m (if before m i best then i else best) is

/-- The queued index whose key is least (R125). It is asked for only while the queue holds a node. -/
def queueMin (m : Memory Node) (q : List Nat) : Nat :=
  match q with
  | [] => 0
  | i :: is => leastOf m i is

/-- Take the node of index `a` out of the queue (R125): `INQ[a] <- 0; QCNT <- QCNT - 1`. -/
def dequeue (a : Nat) (s : State) : State :=
  { s with work := { s.work with inq := s.work.inq.erase a, qcnt := s.work.qcnt - 1 } }

/-- Put a new node at arena index `NEXT` and into the queue, and advance `NEXT` (R122, R127). -/
def appendNode (nd : Node) (s : State) : State :=
  let t := writeNode s.work.next nd s
  { t with
    work := { t.work with
      inq := t.work.inq ++ [t.work.next]
      qcnt := t.work.qcnt + 1
      next := t.work.next + 1 } }

/-- `ExtractMin` (R125). -/
def extractMin (s : State) : Nat × State :=
  let a := queueMin s.node s.work.inq
  (a, dequeue a s)

/-! ### Seeding (R122) -/

/-- The start of BUILD (R120, R121). -/
def startBuild (s : State) : State :=
  let t := withdrawTree s
  { t with work := { t.work with inq := [], qcnt := 0, next := 0, total := 0, scan := 0 } }

/-- The leaf of a symbol (R45, R122). -/
def leafNode (w x : Nat) : Node := { w := w, leaf := true, sym := x, left := nilIndex, right := nilIndex }

/-- Add a leaf of count `f` for the symbol in `SCAN` (R122). -/
def seedLeaf (f : Nat) (s : State) : State :=
  let t := appendNode (leafNode f s.work.scan) s
  { t with work := { t.work with total := t.work.total + f } }

/-- `SCAN <- SCAN + 1`. DESIGN CHOICE (log 20): `SCAN` is the `s` of R120's loop, so it ends at NSYMV, or at the
symbol too many where the scan raises. -/
def advanceScan (s : State) : State := { s with work := { s.work with scan := s.work.scan + 1 } }

/-- One turn of the seed scan (R120, R122, R124): the count at `SCAN` is read once (log 7). DESIGN CHOICE (log 19):
a turn that raises leaves `INQ` and `QCNT` as the scan has filled them; the spec leaves them `UNSPEC` then (R132,
R213). -/
def seedTurn (s : State) : Pass :=
  let f := readFreq s.work.scan s
  if f.1 = 0 then .running (advanceScan f.2)
  else if f.2.work.next = s.cfg.maxLeaf then
    .raised (raise Instr.build.opc .capacityExceeded 2#4 (wordOf s.cfg.maxLeaf) f.2.work.scan f.2)
  else .running (advanceScan (seedLeaf f.1 f.2))

/-! ### Merging (R125 to R127) -/

/-- The internal node over two extracted nodes: first left, second right (R126, R127). -/
def mergeNode (m : Memory Node) (a b : Nat) : Node :=
  { w := weightOf m a + weightOf m b, leaf := false, sym := 0, left := wordOf a, right := wordOf b }

/-- One merge (R127). -/
def mergeTurn (s : State) : State :=
  let a := extractMin s
  let b := extractMin a.2
  let t := { b.2 with work := { b.2.work with qa := a.1, qb := b.1 } }
  appendNode (mergeNode t.node t.work.qa t.work.qb) t

/-- `while QCNT > 1`: at most `n` merges. `QCNT` falls by one each turn (R133), so `QCNT` turns are enough. -/
def mergeLoop : Nat → State → State
  | 0, s => s
  | n + 1, s => if s.work.qcnt > 1 then mergeLoop n (mergeTurn s) else s

/-- The end of a successful BUILD with `n` leaves (R128). -/
def finishBuild (n : Nat) (s : State) : State :=
  { s with
    nleaf := wordOf n
    nnode := wordOf s.work.next
    root := wordOf (s.work.next - 1)
    treeValid := true }

/-- What follows the scan (R120, R123, R124). -/
def afterSeed (s : State) : State :=
  if s.work.next = 0 then raise Instr.build.opc .emptyAlphabet 0#4 0#32 0 s
  else if s.work.total > s.cfg.wmax then
    raise Instr.build.opc .capacityExceeded 3#4 (wordOf s.work.next) 0 s
  else finishBuild s.work.next (mergeLoop s.work.qcnt s)

/-- What BUILD does once accepted (R120). DESIGN CHOICE (log 19): a BUILD that fails keeps in `INQ` and `QCNT` the
leaves it has seeded; the spec leaves them `UNSPEC` (R132, R213), and nothing reads them. -/
def buildEngine (s : State) : State :=
  match Pass.loop seedTurn s.cfg.nsymv (startBuild s) with
  | .raised t => t
  | .running t => afterSeed t

/-- BUILD (R120). -/
def execBuild (s : State) : Result := accepted s (fun s => finish (buildEngine s))

end Sys2Proof.Machine
end

