-- ==== Sys2Proof/Machine/CodeGen.lean ====
section
/-! DEFINITION. The code-table generator, GENCODES (42_code_table_generator.md). The walk keeps its path in `PATH` and
`DEPTH` and its pending right children in `STK` (R48). -/

namespace Sys2Proof.Machine

/-- GENCODES starts with a fresh table (R140, R142): no symbol has a code. DESIGN CHOICE (log 20): the clearing loop
leaves `SCAN` at NSYMV, and `PATH`, `DEPTH` and `STK` are emptied also for the single-symbol tree; R140 names none
of them in its pseudocode, and they are dead when the command ends (R48). -/
def freshCodes (s : State) : State :=
  { s with
    codesValid := false
    code := []
    work := { s.work with scan := s.cfg.nsymv, path := [], depth := 0, stk := [] } }

/-- Record the path walked so far as the code of symbol `x` (R140, R145). -/
def recordCode (x : Nat) (s : State) : State := writeCode x (s.work.path.take s.work.depth) s

/-- Go down to the left child: digit 0, and the right child is pending (R145). -/
def descendLeft (right : Word) (s : State) : State :=
  { s with
    work := { s.work with
      path := s.work.path ++ [false]
      depth := s.work.depth + 1
      stk := right :: s.work.stk } }

/-- The right child that is pending. `descendLeft` put it there. -/
def pendingRight (s : State) : Word := s.work.stk.headD nilIndex

/-- Turn from the left child to the pending right one: the last digit becomes 1 (R145). -/
def turnRight (s : State) : State :=
  { s with
    work := { s.work with
      path := s.work.path.dropLast ++ [true]
      stk := s.work.stk.tail } }

/-- Come back up from the right child. -/
def ascend (s : State) : State :=
  { s with work := { s.work with path := s.work.path.dropLast, depth := s.work.depth - 1 } }

/-- `Walk` from node `i` (R140, R145), left subtree first, with room for `room` more digits in `PATH`; none where
an internal node is met and there is no room (log 9). -/
def walk : Nat → Word → State → Option State
  | 0, i, s =>
    let nd := readNode i.toNat s
    if nd.1.leaf then some (recordCode nd.1.sym nd.2) else none
  | room + 1, i, s =>
    let nd := readNode i.toNat s
    if nd.1.leaf then some (recordCode nd.1.sym nd.2)
    else
      match walk room nd.1.left (descendLeft nd.1.right nd.2) with
      | none => none
      | some t =>
        match walk room (pendingRight t) (turnRight t) with
        | none => none
        | some u => some (ascend u)

/-- The table of a single-symbol tree: the fixed code "0" (R143). -/
def singleCode (s : State) : State :=
  let nd := readNode s.root.toNat s
  writeCode nd.1.sym [false] nd.2

/-- `CODES_VALID <- 1` (R144). -/
def codesDone (s : State) : State := { s with codesValid := true }

/-- What GENCODES does once accepted (R140); none where the walk leaves `PATH` (log 9). -/
def gencodesEngine (s : State) : Option State :=
  if s.treeValid = false then some (raise Instr.gencodes.opc .notReady 0#4 0#32 0 s)
  else
    let t := freshCodes s
    if t.nleaf = 1#32 then some (codesDone (singleCode t))
    else (walk t.cfg.codeMax t.root t).map codesDone

/-- GENCODES (R140). -/
def execGencodes (s : State) : Result :=
  accepted s (fun s =>
    match gencodesEngine s with
    | some t => finish t
    | none => .fault .pathOverflow)

end Sys2Proof.Machine
end

