-- ==== Sys2Proof/Machine/Control.lean ====
section
/-! DEFINITION. The control commands NOP, CLRERR and CLEAR (45_control_commands.md). They are accepted while an error is
latched and raise nothing (R175). -/

namespace Sys2Proof.Machine

/-- NOP (R176): nothing. -/
def execNop (s : State) : Result := finish s

/-- CLRERR (R177): the return from an error. -/
def execClrerr (s : State) : Result := finish (clearErr s)

/-- What CLEAR does (R178): every register to its reset value, every element of FREQ to 0; the other memories
keep their contents. -/
def clearBlock (s : State) : State :=
  { withdrawTree (clearErr s) with
    tlen := 0#32
    blen := 0#32
    olen := 0#32
    sel := 0#32
    idx := 0#32
    sub := 0#32
    freq := Memory.filled s.cfg.nsymv 0 }

/-- CLEAR (R178). -/
def execClear (s : State) : Result := finish (clearBlock s)

end Sys2Proof.Machine
end

