-- ==== Sys2Proof/Machine/Counter.lean ====
section
/-! DEFINITION. The frequency counter, COUNT (40_frequency_counter.md). -/

namespace Sys2Proof.Machine

/-- COUNT starts with a fresh table (R112): every element of FREQ is 0. DESIGN CHOICE (log 20): the clearing loop
leaves `SCAN` at NSYMV; R110 names `SCAN` among COUNT's working registers and gives it no value. -/
def freshTable (s : State) : State :=
  { s with
    freq := Memory.filled s.cfg.nsymv 0
    work := { s.work with scan := s.cfg.nsymv, tpos := 0 } }

/-- One turn of the counting loop (R110, R113): the symbol at `TPOS` is read once (log 7) and its count goes up
by one. -/
def countTurn (s : State) : State :=
  let x := readText s.work.tpos s
  let f := readFreq x.1 x.2
  let t := writeFreq x.1 (f.1 + 1) f.2
  { t with work := { t.work with tpos := t.work.tpos + 1 } }

/-- What COUNT does once accepted (R110). -/
def countEngine (s : State) : State :=
  if s.tlen.toNat > s.cfg.textMax then raise Instr.count.opc .capacityExceeded 1#4 s.tlen 0 s
  else countTurn^[s.tlen.toNat] (freshTable s)

/-- COUNT (R110). -/
def execCount (s : State) : Result := accepted s (fun s => finish (countEngine s))

end Sys2Proof.Machine
end

