-- ==== Sys2Proof/Machine/Decoder.lean ====
section
/-! DEFINITION. The decoder, tree-walk bit-by-bit state machine, DECODE (44_decoder.md). -/

namespace Sys2Proof.Machine

/-- `OLEN <- 0; CUR <- ROOT`, and the working positions to the start (R160, R163, R168). DESIGN CHOICE (log 20):
`BPOS` and `OPOS` are set before the test of `BLEN`, where R160 sets `OPOS` after it, so CapacityExceeded 1 leaves
both at 0; they are dead then (R48). -/
def startDecode (s : State) : State :=
  { s with olen := 0#32, cur := s.root, work := { s.work with bpos := 0, opos := 0 } }

/-- `Emit` (R160, R162): append a symbol to OUT, or raise when OUT is full. -/
def emit (x : Nat) (s : State) : Pass :=
  if s.work.opos = s.cfg.outMax then
    .raised (raise Instr.decode.opc .capacityExceeded 5#4 (wordOf s.work.bpos) x s)
  else
    let t := writeOut s.work.opos x s
    .running { t with work := { t.work with opos := t.work.opos + 1 } }

/-- Move the cursor (R164). -/
def moveCur (i : Word) (s : State) : State := { s with cur := i }

/-- The bit at `BPOS` is done. -/
def nextBit (s : State) : State := { s with work := { s.work with bpos := s.work.bpos + 1 } }

/-- A bit under a single-symbol tree (R165): 0 emits the symbol, 1 is no code of this tree. -/
def singleBit (b : Bool) (s : State) : Pass :=
  if b then .raised (raise Instr.decode.opc .malformedStream 1#4 (wordOf s.work.bpos) 0 s)
  else
    let nd := readNode s.root.toNat s
    match emit nd.1.sym nd.2 with
    | .raised t => .raised t
    | .running t => .running (nextBit t)

/-- A bit under a tree of two or more leaves (R164): move to a child; at a leaf emit, and only then go back to
the root (R162). -/
def treeBit (b : Bool) (s : State) : Pass :=
  let nd := readNode s.cur.toNat s
  let t := moveCur (if b then nd.1.right else nd.1.left) nd.2
  let child := readNode t.cur.toNat t
  if child.1.leaf then
    match emit child.1.sym child.2 with
    | .raised u => .raised u
    | .running u => .running (nextBit (moveCur u.root u))
  else .running (nextBit child.2)

/-- One turn of the decoding loop (R160). -/
def decodeTurn (s : State) : Pass :=
  let b := readBits s.work.bpos s
  if b.2.nleaf = 1#32 then singleBit b.1 b.2 else treeBit b.1 b.2

/-- The end of the input (R166): on a symbol boundary the length is written, inside a code the stream is
malformed. -/
def finishDecode (s : State) : State :=
  if s.cur = s.root then { s with olen := wordOf s.work.opos }
  else raise Instr.decode.opc .malformedStream 2#4 s.blen 0 s

/-- What DECODE does once accepted (R160). -/
def decodeEngine (s : State) : State :=
  if s.treeValid = false then raise Instr.decode.opc .notReady 0#4 0#32 0 s
  else
    let t := startDecode s
    if t.blen.toNat > t.cfg.bitsMax then raise Instr.decode.opc .capacityExceeded 1#4 t.blen 0 t
    else
      match Pass.loop decodeTurn t.blen.toNat t with
      | .raised u => u
      | .running u => finishDecode u

/-- DECODE (R160). -/
def execDecode (s : State) : Result := accepted s (fun s => finish (decodeEngine s))

end Sys2Proof.Machine
end

