-- ==== Sys2Proof/Machine/Encoder.lean ====
section
/-! DEFINITION. The encoder, code-table lookup and bit-stream writer, ENCODE (43_encoder.md). -/

namespace Sys2Proof.Machine

/-- `BLEN <- 0`, and the working positions to the start (R150, R155). DESIGN CHOICE (log 20): `TPOS` and `BPOS` are
set before the test of `TLEN`, where R150 sets `BPOS` after it, so CapacityExceeded 1 leaves both at 0; they are
dead then (R48). -/
def startEncode (s : State) : State :=
  { s with blen := 0#32, work := { s.work with tpos := 0, bpos := 0 } }

/-- Append the digits of a code at `BPOS` and pass to the next symbol (R153). -/
def appendCode (c : Code) (s : State) : State :=
  let t := writeBitRun s.work.bpos c s
  { t with work := { t.work with bpos := t.work.bpos + c.length, tpos := t.work.tpos + 1 } }

/-- One turn of the encoding loop (R150): the symbol at `TPOS` is read once; UnknownSymbol is tested before the
room left in BITS (R215). -/
def encodeTurn (s : State) : Pass :=
  let x := readText s.work.tpos s
  match lookupCode x.1 x.2 with
  | none => .raised (raise Instr.encode.opc .unknownSymbol 0#4 (wordOf x.2.work.tpos) x.1 x.2)
  | some c =>
    if x.2.work.bpos + c.length > x.2.cfg.bitsMax then
      .raised (raise Instr.encode.opc .capacityExceeded 4#4 (wordOf x.2.work.tpos) x.1 x.2)
    else .running (appendCode c x.2)

/-- `BLEN <- BPOS` (R155). -/
def finishEncode (s : State) : State := { s with blen := wordOf s.work.bpos }

/-- What ENCODE does once accepted (R150). -/
def encodeEngine (s : State) : State :=
  if s.codesValid = false then raise Instr.encode.opc .notReady 0#4 0#32 0 s
  else
    let t := startEncode s
    if t.tlen.toNat > t.cfg.textMax then raise Instr.encode.opc .capacityExceeded 1#4 t.tlen 0 t
    else
      match Pass.loop encodeTurn t.tlen.toNat t with
      | .raised u => u
      | .running u => finishEncode u

/-- ENCODE (R150). -/
def execEncode (s : State) : Result := accepted s (fun s => finish (encodeEngine s))

end Sys2Proof.Machine
end

