-- ==== Sys2Proof/Machine/Port.lean ====
section
/-! DEFINITION. The host port (20_memory.md): the data port, the two transaction primitives, and what the block does on
each event of the host. What a command does comes in as an argument, so that this file does not depend on
the dispatch. -/

namespace Sys2Proof.Machine

/-! ### The data port (R63 to R69) -/

/-- The space a `DATA` access reaches, with `IDX` and `SUB` checked against it; none where the access is refused
(R62 rows 4 to 6). -/
def dataSpace (s : State) : Option Space :=
  match Space.ofSel s.sel with
  | none => none
  | some sp =>
    if s.idx.toNat < sp.size s.cfg then
      match sp.subLimit s.cfg with
      | none => some sp
      | some n => if s.sub.toNat < n then some sp else none
    else none

/-- A read of NODE (R67): meaningful only when `TREE_VALID = 1` and `IDX < NNODE`, a free word otherwise
(log 8). -/
def dataNode (s : State) : Word × State :=
  if s.treeValid ∧ s.idx.toNat < s.nnode.toNat then
    let nd := readNode s.idx.toNat s
    (nd.1.field s.sub.toNat, nd.2)
  else drawWord s

/-- A read of CODELEN (R68): `VALID` in bit 31 and `LEN` below it; `LEN` is free where `VALID = 0`, and all of it
while `CODES_VALID = 0` (log 8). -/
def dataCodelen (s : State) : Word × State :=
  if s.codesValid then
    match lookupCode s.idx.toNat s with
    | some c => (1#1 ++ BitVec.ofNat 31 c.length, s)
    | none => (0#1 ++ (drawWord s).1.extractLsb' 0 31, (drawWord s).2)
  else drawWord s

/-- A read of CODEBIT (R68): the digit at `SUB`; free where there is none, and while `CODES_VALID = 0` (log 8). -/
def dataCodebit (s : State) : Word × State :=
  if s.codesValid then
    match lookupCode s.idx.toNat s with
    | some ds =>
      match ds[s.sub.toNat]? with
      | some b => (wordOf b.toNat, s)
      | none => drawWord s
    | none => drawWord s
  else drawWord s

/-- `DataRead` (R63 to R69): the data and the state after the read, which differs at most in the draws; none where
it is refused. -/
def dataRead (s : State) : Option (Word × State) :=
  match dataSpace s with
  | none => none
  | some .freq => some (wordOf (readFreq s.idx.toNat s).1, (readFreq s.idx.toNat s).2)
  | some .text => some (wordOf (readText s.idx.toNat s).1, (readText s.idx.toNat s).2)
  | some .bits => some (wordOf (readBits s.idx.toNat s).1.toNat, (readBits s.idx.toNat s).2)
  | some .out => some (wordOf (readOut s.idx.toNat s).1, (readOut s.idx.toNat s).2)
  | some .node => some (dataNode s)
  | some .codelen => some (dataCodelen s)
  | some .codebit => some (dataCodebit s)

/-- Store a value that fits into the element `IDX` of a space the host may write (R64 to R66). -/
def dataStore (sp : Space) (v : Word) (s : State) : State :=
  match sp with
  | .freq => { s with freq := s.freq.write s.idx.toNat v.toNat }
  | .text => { s with text := s.text.write s.idx.toNat v.toNat }
  | .bits => { s with bits := s.bits.write s.idx.toNat (v.getLsbD 0) }
  | .out => s
  | .node => s
  | .codelen => s
  | .codebit => s

/-- `DataWrite` (R63 to R69); none where it is refused (R62 rows 4 to 8). -/
def dataWrite (v : Word) (s : State) : Option State :=
  match dataSpace s with
  | none => none
  | some sp =>
    match sp.writeLimit s.cfg with
    | none => none
    | some n => if v.toNat < n then some (dataStore sp v s) else none

/-! ### The registers (R61) -/

/-- A read of a register (R61): the data and the state after it; none where it is refused. -/
def regRead (r : Reg) (s : State) : Option (Word × State) :=
  match r with
  | .cmd => some (0#32, s)
  | .status => some (statusWord s, s)
  | .err => some (errWord s, s)
  | .errpos => some (s.err.pos, s)
  | .errsym => some (s.err.sym, s)
  | .tlen => some (s.tlen, s)
  | .blen => some (s.blen, s)
  | .olen => some (s.olen, s)
  | .nleaf => some (s.nleaf, s)
  | .nnode => some (s.nnode, s)
  | .root => some (s.root, s)
  | .cur => some (s.cur, s)
  | .sel => some (s.sel, s)
  | .idx => some (s.idx, s)
  | .sub => some (s.sub, s)
  | .data => dataRead s

/-- A write of a register other than `CMD` (R61); none where it is refused: a read-only register (R62 row 3), or
a `DATA` write that is refused. -/
def regWrite (r : Reg) (v : Word) (s : State) : Option State :=
  match r with
  | .cmd => none
  | .status => none
  | .err => none
  | .errpos => none
  | .errsym => none
  | .tlen => some { s with tlen := v }
  | .blen => some { s with blen := v }
  | .olen => none
  | .nleaf => none
  | .nnode => none
  | .root => none
  | .cur => none
  | .sel => some { s with sel := v }
  | .idx => some { s with idx := v }
  | .sub => some { s with sub := v }
  | .data => dataWrite v s

/-! ### Transactions and the reset input -/

/-- `HostRead` (R61), with the answer. -/
def hostRead (off width : Nat) (s : State) : State :=
  match Reg.at off width with
  | none => refuseRead s
  | some r =>
    match regRead r s with
    | none => refuseRead s
    | some d => answerRead d.1 d.2

/-- A write of `v` to `CMD` (R91): the command the word encodes, run by `run`, or IllegalCommand. The acceptance
test stands in each (R91's first line). -/
def command (run : Instr → State → Result) (v : Word) (s : State) : Result :=
  match decodeWord v with
  | .ok i => run i s
  | .error _ => illegalCommand v s

/-- A register write other than a command, with the answer. -/
def hostWriteReg (r : Reg) (v : Word) (s : State) : State :=
  match regWrite r v s with
  | none => refuseWrite s
  | some t => answerWrite t

/-- `HostWrite` (R61), with the answer. -/
def hostWrite (run : Instr → State → Result) (off width : Nat) (v : Word) (s : State) : Result :=
  match Reg.at off width with
  | none => .next (refuseWrite s)
  | some .cmd => command run v s
  | some r => .next (hostWriteReg r v s)

/-- What the block does on one event of the host (R60, R230, R231). A command that the reset input cuts short
leaves the reset state and no response (R231, U10; log 11). -/
def onEvent (run : Instr → State → Result) (e : HostEvent) (s : State) : Result :=
  match e with
  | .read off width => .next (hostRead off width s)
  | .write off width v => hostWrite run off width v s
  | .reset => .next (resetInput s)
  | .cutByReset _ => .next (resetInput s)

/-- One step (R60, R76): the next event of the host, if there is one; a block nobody asks anything of keeps its
state (R219; log 2). -/
def takeEvent (run : Instr → State → Result) (s : State) : Result :=
  match s.host with
  | [] => .next s
  | e :: es => onEvent run e { s with host := es }

/-- The host's next transaction is the `CMD` write of `v`. -/
def State.issue (v : Word) (s : State) : State := { s with host := HostEvent.write 0x00 32 v :: s.host }

end Sys2Proof.Machine
end

