-- ==== Sys2Proof/Machine/Step.lean ====
section
/-! DEFINITION. One step of the machine, and the placing of a command word where the next step takes it. -/

namespace Sys2Proof.Machine

/-- One step: the next event of the host (R60), with `exec` for the commands. -/
def step (s : State) : Host.Outcome State Fault Refusal := takeEvent exec s

/-- The state in which the host's very next transaction is the write of the word `w` to `CMD`. Nothing is fetched
from a memory (R30): a command comes from the host, so this stands for the host's write (log 2). -/
def State.withFetchWord (s : State) (nbits w : Nat) : State := s.issue (wordOf (w % 2 ^ nbits))

end Sys2Proof.Machine
end

