-- ==== Sys2Proof/Safety.lean ====
section
/-! DEFINITION. What a well-formed state is (the invariants of 10_state.md) and the terms in which claims about the machine
are stated. Nothing here is part of the machine. -/

namespace Sys2Proof.Machine

/-! ### Terms of claims -/

/-- The answer to a write that was done. -/
abbrev okWrite : Option Response := some ⟨.ok, none⟩

/-- The answer to a read that was done. -/
abbrev okRead (d : Word) : Option Response := some ⟨.ok, some d⟩

/-- The answer to a refused write. -/
abbrev refusedWrite : Option Response := some ⟨.refused, none⟩

/-- The memory holds the elements `vs` from index 0 on. -/
abbrev Holds {α : Type} (m : Memory α) (vs : List α) : Prop := ∀ i, i < vs.length → m.read i = vs[i]?

/-- The memory `m` holds `vs` from index 0 on and, from there on, what `old` held. -/
abbrev HoldsThen {α : Type} (m : Memory α) (vs : List α) (old : Memory α) : Prop :=
  Holds m vs ∧ ∀ i, vs.length ≤ i → m.read i = old.read i

/-- The source text is `xs`: `TLEN` and `TEXT[0 .. TLEN-1]` (R27, R42). -/
abbrev TextIs (s : State) (xs : List Nat) : Prop := s.tlen.toNat = xs.length ∧ Holds s.text xs

/-- The bit-string is `bs`: `BLEN` and `BITS[0 .. BLEN-1]` (R28, R43). -/
abbrev BitsAre (s : State) (bs : List Bool) : Prop := s.blen.toNat = bs.length ∧ Holds s.bits bs

/-- Every element of FREQ has been written (R233). -/
abbrev FreqDefined (s : State) : Prop := ∀ x, x < s.cfg.nsymv → (s.freq.read x).isSome = true

/-- `FREQ[x]`, where it has been written. -/
abbrev freqAt (s : State) (x : Nat) : Nat := (s.freq.read x).getD 0

/-- The sum of all counts. -/
abbrev freqSum (s : State) : Nat := ((List.range s.cfg.nsymv).map (freqAt s)).sum

/-- The symbols present in the table, in ascending order (R122). -/
abbrev present (s : State) : List Nat := (List.range s.cfg.nsymv).filter (fun x => freqAt s x != 0)

/-- `NODE[i]`, where it has been written. -/
abbrev nodeAt (s : State) (i : Nat) : Node := (s.node.read i).getD ⟨0, false, 0, nilIndex, nilIndex⟩

/-- The node that is reached from node `i` along a path, 0 = left, 1 = right (R8, R145): none when the path
goes on at a leaf. -/
def follow (m : Memory Node) : Word → List Bool → Option Word
  | i, [] => some i
  | i, b :: p =>
    match m.read i.toNat with
    | none => none
    | some nd => if nd.leaf then none else follow m (if b then nd.right else nd.left) p

/-- The composite key of one node is before that of another (R13). -/
abbrev keyBefore (s : State) (a b : Nat) : Prop :=
  (nodeAt s a).w < (nodeAt s b).w ∨ ((nodeAt s a).w = (nodeAt s b).w ∧ a < b)

/-- Node `j` is a child of node `i`. -/
abbrev isChild (s : State) (j i : Nat) : Prop := (nodeAt s i).left.toNat = j ∨ (nodeAt s i).right.toNat = j

/-- The nodes that are in the queue when node `i` is made: those made before it that no node made before it
owns (R127). `n` is the number of leaves. -/
abbrev queuedAt (s : State) (n i j : Nat) : Prop := j < i ∧ ∀ k, k < i → n ≤ k → ¬ isChild s j k

/-! ### Invariants -/

/-- Every memory is in canonical form. -/
abbrev MemoryForm (s : State) : Prop :=
  Memory.wf s.freq = true ∧ Memory.wf s.text = true ∧ Memory.wf s.bits = true ∧
  Memory.wf s.out = true ∧ Memory.wf s.node = true ∧ Memory.wf s.code = true

/-- Every element stands at an index of its memory and fits its width (R40, R45, R46). -/
abbrev ElementBounds (s : State) : Prop :=
  (∀ e ∈ s.freq, e.1 < s.cfg.nsymv ∧ e.2 ≤ s.cfg.wmax) ∧
  (∀ e ∈ s.text, e.1 < s.cfg.textMax ∧ e.2 < s.cfg.nsymv) ∧
  (∀ e ∈ s.bits, e.1 < s.cfg.bitsMax) ∧
  (∀ e ∈ s.out, e.1 < s.cfg.outMax ∧ e.2 < s.cfg.nsymv) ∧
  (∀ e ∈ s.node, e.1 < s.cfg.nodeMax ∧ e.2.w ≤ s.cfg.wmax ∧ e.2.sym < s.cfg.nsymv) ∧
  (∀ e ∈ s.code, e.1 < s.cfg.nsymv ∧ e.2.length ≤ s.cfg.codeMax)

/-- What the registers keep to (R24 to R26, R31 to R34, R52): the latch holds one of the six codes or is all
zero, and without a tree there is no code table, no count of nodes, no root and no cursor. -/
abbrev RegisterForm (s : State) : Prop :=
  s.err.code.toNat ≤ 6 ∧
  (s.err.code = 0#4 → s.err = ErrLatch.none) ∧
  (s.treeValid = false →
    s.codesValid = false ∧ s.nleaf = 0#32 ∧ s.nnode = 0#32 ∧ s.root = nilIndex ∧ s.cur = nilIndex)

/-- The number of leaves. -/
abbrev leaves (s : State) : Nat := s.nleaf.toNat

/-- R51 (a). -/
abbrev TreeSizes (s : State) : Prop :=
  1 ≤ leaves s ∧ leaves s ≤ s.cfg.maxLeaf ∧ s.nnode.toNat = 2 * leaves s - 1 ∧ s.root.toNat = 2 * leaves s - 2

/-- Every entry of the tree has been written. -/
abbrev TreeListed (s : State) : Prop := ∀ i, i < 2 * leaves s - 1 → (s.node.read i).isSome = true

/-- R51 (b): the leaves, with the fields of R45. -/
abbrev TreeLeaves (s : State) : Prop :=
  (∀ i, i < leaves s →
    (nodeAt s i).leaf = true ∧ (nodeAt s i).w ≠ 0 ∧ (nodeAt s i).sym < s.cfg.nsymv ∧
    (nodeAt s i).left = nilIndex ∧ (nodeAt s i).right = nilIndex) ∧
  (∀ i, i < leaves s → ∀ j, j < i → (nodeAt s j).sym < (nodeAt s i).sym)

/-- R51 (c): the internal nodes, with the fields of R45. -/
abbrev TreeInternals (s : State) : Prop :=
  ∀ i, i < 2 * leaves s - 1 → leaves s ≤ i →
    (nodeAt s i).leaf = false ∧ (nodeAt s i).sym = 0 ∧
    (nodeAt s i).left.toNat < i ∧ (nodeAt s i).right.toNat < i ∧ (nodeAt s i).left ≠ (nodeAt s i).right ∧
    (nodeAt s i).w = (nodeAt s (nodeAt s i).left.toNat).w + (nodeAt s (nodeAt s i).right.toNat).w

/-- R51 (d): every node but the root is the child of exactly one internal node. (That the root is the child of
none follows from R51 (c).) -/
abbrev TreeOwned (s : State) : Prop :=
  ∀ j, j < 2 * leaves s - 2 →
    ((List.range (2 * leaves s - 1)).filter
      (fun i => decide (leaves s ≤ i) && decide (isChild s j i))).length = 1

/-- R51 (e). -/
abbrev TreeWeight (s : State) : Prop :=
  (nodeAt s s.root.toNat).w = ((List.range (leaves s)).map (fun i => (nodeAt s i).w)).sum ∧
  (nodeAt s s.root.toNat).w ≤ s.cfg.wmax

/-- R51 (f). -/
abbrev TreeOrdered (s : State) : Prop :=
  ∀ i, i < 2 * leaves s - 1 → ∀ j, j < i → leaves s ≤ j → (nodeAt s j).w ≤ (nodeAt s i).w

/-- The tree invariants (R51), whenever `TREE_VALID = 1`. -/
abbrev TreeInv (s : State) : Prop :=
  s.treeValid = true →
    TreeSizes s ∧ TreeListed s ∧ TreeLeaves s ∧ TreeInternals s ∧ TreeOwned s ∧ TreeWeight s ∧ TreeOrdered s

/-- The code of leaf `l`, where there is one. -/
abbrev codeOfLeaf (s : State) (l : Nat) : Option Code := s.code.read (nodeAt s l).sym

/-- The code-table invariants (R52) but for prefix-freedom, which follows from them (R146 (d)), whenever
`CODES_VALID = 1`: an entry for each leaf's symbol and for no other, every code non-empty and within
`CODE_MAX`, the root path for two leaves or more and "0" for one. -/
abbrev CodeInv (s : State) : Prop :=
  s.codesValid = true →
    s.treeValid = true ∧
    (∀ e ∈ s.code, ∃ l, l < leaves s ∧ (nodeAt s l).sym = e.1) ∧
    (∀ l, l < leaves s →
      (codeOfLeaf s l).isSome = true ∧
      1 ≤ ((codeOfLeaf s l).getD []).length ∧ ((codeOfLeaf s l).getD []).length ≤ s.cfg.codeMax ∧
      (leaves s = 1 → codeOfLeaf s l = some [false]) ∧
      (2 ≤ leaves s → follow s.node s.root ((codeOfLeaf s l).getD []) = some (wordOf l)))

/-- A well-formed state: the parameters meet R5 and every invariant above holds. -/
abbrev Inv (s : State) : Prop :=
  s.cfg.Valid ∧ MemoryForm s ∧ ElementBounds s ∧ RegisterForm s ∧ TreeInv s ∧ CodeInv s

/-! ### The complete list of refusals (R62) -/

/-- R62 rows 1 and 2: not an aligned 32-bit access below `0x40`. -/
abbrev badAccess (off width : Nat) : Prop := width ≠ 32 ∨ off % 4 ≠ 0 ∨ 0x40 ≤ off

/-- R62 row 4: `SEL` is none of the seven codes. -/
abbrev badSel (s : State) : Prop := s.sel.toNat = 0 ∨ 8 ≤ s.sel.toNat

/-- R62 row 5, by the table of R63. -/
abbrev badIdx (s : State) : Prop :=
  (s.sel = 1#32 ∧ s.cfg.nsymv ≤ s.idx.toNat) ∨ (s.sel = 2#32 ∧ s.cfg.textMax ≤ s.idx.toNat) ∨
  (s.sel = 3#32 ∧ s.cfg.bitsMax ≤ s.idx.toNat) ∨ (s.sel = 4#32 ∧ s.cfg.outMax ≤ s.idx.toNat) ∨
  (s.sel = 5#32 ∧ s.cfg.nodeMax ≤ s.idx.toNat) ∨ (s.sel = 6#32 ∧ s.cfg.nsymv ≤ s.idx.toNat) ∨
  (s.sel = 7#32 ∧ s.cfg.nsymv ≤ s.idx.toNat)

/-- R62 row 6. -/
abbrev badSub (s : State) : Prop :=
  (s.sel = 5#32 ∧ 4 < s.sub.toNat) ∨ (s.sel = 7#32 ∧ s.cfg.codeMax ≤ s.sub.toNat)

/-- R62 row 7. -/
abbrev readOnlySpace (s : State) : Prop := s.sel = 4#32 ∨ s.sel = 5#32 ∨ s.sel = 6#32 ∨ s.sel = 7#32

/-- R62 row 8. -/
abbrev badValue (s : State) (v : Word) : Prop :=
  (s.sel = 1#32 ∧ s.cfg.wmax < v.toNat) ∨ (s.sel = 2#32 ∧ 2 ^ s.cfg.symW ≤ v.toNat) ∨
  (s.sel = 3#32 ∧ 1 < v.toNat)

/-- The reads that are refused (R62). -/
abbrev RefusedRead (s : State) (off width : Nat) : Prop :=
  badAccess off width ∨ (off = 0x3C ∧ (badSel s ∨ badIdx s ∨ badSub s))

/-- The writes that are refused (R62); row 3 lists the read-only registers by their offsets. -/
abbrev RefusedWrite (s : State) (off width : Nat) (v : Word) : Prop :=
  badAccess off width ∨
  off ∈ [0x04, 0x08, 0x0C, 0x10, 0x1C, 0x20, 0x24, 0x28, 0x2C] ∨
  (off = 0x3C ∧ (badSel s ∨ badIdx s ∨ badSub s ∨ readOnlySpace s ∨ badValue s v)) ∨
  (off = 0x00 ∧ s.latched ∧ v ≠ 0x00000000#32 ∧ v ≠ 0x0000000E#32 ∧ v ≠ 0x0000000F#32)

end Sys2Proof.Machine
end

