-- ==== Sys2Proof/Certificates/Slice0/Obligations.lean ====
section
/-! DEFINITION. The statements about the machine, each from a rule of the spec. In every frame "t is s but for …" the listed
fields are the only ones that may differ; `work` is the hidden state (R48), `draws` the model's counter of
free values (log 4). -/

open Sys2Proof Sys2Proof.Machine

/-! ### Command words -/

/-- R90, R92: the word of each command, and its bytes on a byte bus (R71), decode to that command. -/
def Obligations.EncodedCommandDecodesToItself : Prop :=
  ∀ i : Instr, decodeWord (encode i) = .ok i ∧ decodeBytes (bytesOfWord (encode i)) = .ok i

/-- R94: of all words exactly the eight of R92 are commands. -/
def Obligations.OnlyTheEightWordsAreCommands : Prop :=
  ∀ (v : Word) (i : Instr), decodeWord v = .ok i ↔ v = encode i

/-- Words written out from R90 and R92, legal and illegal (V104, V105). -/
def Obligations.WrittenOutWordsDecode : Prop :=
  decodeWord 0x00000000#32 = .ok .nop ∧ decodeWord 0x00000001#32 = .ok .count ∧
  decodeWord 0x00000005#32 = .ok .decode ∧ decodeWord 0x0000000F#32 = .ok .clear ∧
  decodeWord 0x00000006#32 = .error (.reservedOpcode 0x06#8) ∧
  decodeWord 0x00000100#32 = .error (.zeroField 0x00000100#32) ∧
  decodeWord 0x80000001#32 = .error (.zeroField 0x80000001#32)

/-- R91: a step whose event is the `CMD` write of a command's word is `exec` of that command, in the state with
that event taken; and so is the step from a state in which the word has been placed. -/
def Obligations.StepRunsTheDecodedCommand : Prop :=
  (∀ (s : State) (v : Word) (i : Instr) (es : List HostEvent),
    s.host = .write 0x00 32 v :: es → decodeWord v = .ok i → step s = exec i { s with host := es }) ∧
  (∀ (s : State) (v : Word) (i : Instr),
    decodeWord v = .ok i → step (s.withFetchWord 32 v.toNat) = exec i s)

/-- R91: a `CMD` write is refused while an error is latched unless the word is 0, 0xE or 0xF; otherwise a word
that is no command latches IllegalCommand and changes nothing else, and a command is run and answered `OK`. -/
def Obligations.CommandWriteIsRefusedIllegalOrRun : Prop :=
  ∀ (s : State) (v : Word) (es : List HostEvent), s.host = .write 0x00 32 v :: es →
    ((s.latched ∧ v ∉ [0x00000000#32, 0x0000000E#32, 0x0000000F#32]) →
      step s = .next { s with host := es, resp := refusedWrite }) ∧
    (¬ (s.latched ∧ v ∉ [0x00000000#32, 0x0000000E#32, 0x0000000F#32]) →
      ((∀ i : Instr, v ≠ encode i) →
        step s = .next { s with
          host := es, err := ⟨6#4, 0#4, v.extractLsb' 0 8, v, 0#32⟩, resp := okWrite }) ∧
      (∀ i : Instr, v = encode i → step s = exec i { s with host := es }) ∧
      (∀ t : State, step s = .next t → t.resp = okWrite))

/-! ### Errors -/

/-- R211: while an error is latched every `CMD` write but NOP, CLRERR and CLEAR (a working command or an illegal
word) is refused and changes nothing; these three are answered OK: NOP changes nothing else, CLRERR clears the
latch alone, and after CLEAR no error is latched either. Every other transaction, whatever its width, works as
usual: what it does, its answer included, does not depend on the latch, and a read of a register that shows the
latch (STATUS, ERR, ERRPOS, ERRSYM) is answered OK. -/
def Obligations.LatchedErrorRefusesAllCommandWritesButThree : Prop :=
  (∀ (s : State) (v : Word) (es : List HostEvent), s.latched → s.host = .write 0x00 32 v :: es →
    v ∉ [0x00000000#32, 0x0000000E#32, 0x0000000F#32] →
    step s = .next { s with host := es, resp := refusedWrite }) ∧
  (∀ (s : State) (es : List HostEvent), s.latched →
    (s.host = .write 0x00 32 0x00000000#32 :: es → step s = .next { s with host := es, resp := okWrite }) ∧
    (s.host = .write 0x00 32 0x0000000E#32 :: es →
      step s = .next { s with host := es, err := ⟨0#4, 0#4, 0#8, 0#32, 0#32⟩, resp := okWrite }) ∧
    (s.host = .write 0x00 32 0x0000000F#32 :: es →
      ∃ t : State, step s = .next t ∧ t.err = ⟨0#4, 0#4, 0#8, 0#32, 0#32⟩ ∧ t.resp = okWrite)) ∧
  (∀ (s : State) (e : ErrLatch) (off width : Nat) (es : List HostEvent),
    s.host = .read off width :: es → (off ∉ [0x04, 0x08, 0x0C, 0x10] ∨ width ≠ 32) →
    ∃ t : State, step s = .next t ∧ step { s with err := e } = .next { t with err := e }) ∧
  (∀ (s : State) (off : Nat) (es : List HostEvent), s.host = .read off 32 :: es →
    off ∈ [0x04, 0x08, 0x0C, 0x10] →
    ∃ d : Word, step s = .next { s with host := es, resp := okRead d }) ∧
  (∀ (s : State) (e : ErrLatch) (off width : Nat) (v : Word) (es : List HostEvent),
    s.host = .write off width v :: es → (off ≠ 0x00 ∨ width ≠ 32) →
    ∃ t : State, step s = .next t ∧ step { s with err := e } = .next { t with err := e })

/-- R209, R214: a latched error is never overwritten; it goes only by CLRERR, CLEAR or reset, and then all five
fields are zero. -/
def Obligations.LatchedErrorStaysUntilAcknowledged : Prop :=
  ∀ s t : State, s.latched → step s = .next t →
    t.err = s.err ∨
    (t.err = ⟨0#4, 0#4, 0#8, 0#32, 0#32⟩ ∧
      (s.host.head? = some (.write 0x00 32 0x0000000E#32) ∨
       s.host.head? = some (.write 0x00 32 0x0000000F#32) ∨
       s.host.head? = some .reset ∨ ∃ v, s.host.head? = some (.cutByReset v)))

/-- R202: a command that raises does so with no error latched before, and latches one of the rows of R202 (code,
sub-code, raising opcode), with the low byte of its own word as `ERROP`. -/
def Obligations.RaisedErrorsAreTheRowsOfTheTable : Prop :=
  ∀ (i : Instr) (s t : State), exec i s = .next t → t.err.code ≠ s.err.code → t.latched →
    s.err.code = 0#4 ∧ t.resp = okWrite ∧ t.err.op = i.opc ∧
    (t.err.code, t.err.sub, t.err.op) ∈
      [(1#4, 0#4, 2#8), (2#4, 0#4, 4#8), (3#4, 1#4, 5#8), (3#4, 2#4, 5#8), (4#4, 0#4, 3#8), (4#4, 0#4, 4#8),
       (4#4, 0#4, 5#8), (5#4, 1#4, 1#8), (5#4, 1#4, 4#8), (5#4, 1#4, 5#8), (5#4, 2#4, 2#8), (5#4, 3#4, 2#8),
       (5#4, 4#4, 4#8), (5#4, 5#4, 5#8)]

/-- R210: GENCODES and DECODE without a tree and ENCODE without codes latch NotReady and change nothing else. -/
def Obligations.MissingPrerequisiteIsNotReady : Prop :=
  ∀ s : State, s.err.code = 0#4 →
    (s.treeValid = false →
      exec .gencodes s = .next { s with err := ⟨4#4, 0#4, 0x03#8, 0#32, 0#32⟩, resp := okWrite }) ∧
    (s.codesValid = false →
      exec .encode s = .next { s with err := ⟨4#4, 0#4, 0x04#8, 0#32, 0#32⟩, resp := okWrite }) ∧
    (s.treeValid = false →
      exec .decode s = .next { s with err := ⟨4#4, 0#4, 0x05#8, 0#32, 0#32⟩, resp := okWrite })

/-! ### Reset -/

/-- R230: the reset input, also in the middle of a command (R231), puts every register at its reset value and
leaves no memory element with a value; the parameters stay. -/
def Obligations.ResetInputLeavesTheResetState : Prop :=
  ∀ (s : State) (e : HostEvent) (es : List HostEvent), (e = .reset ∨ ∃ v, e = .cutByReset v) →
    s.host = e :: es → ∃ t : State, step s = .next t ∧
      t.err = ⟨0#4, 0#4, 0#8, 0#32, 0#32⟩ ∧ t.tlen = 0#32 ∧ t.blen = 0#32 ∧ t.olen = 0#32 ∧
      t.nleaf = 0#32 ∧ t.nnode = 0#32 ∧ t.root = 0xFFFFFFFF#32 ∧ t.cur = 0xFFFFFFFF#32 ∧
      t.sel = 0#32 ∧ t.idx = 0#32 ∧ t.sub = 0#32 ∧ t.treeValid = false ∧ t.codesValid = false ∧
      (∀ k, t.freq.read k = none ∧ t.text.read k = none ∧ t.bits.read k = none ∧ t.out.read k = none ∧
        t.node.read k = none ∧ t.code.read k = none) ∧
      t.cfg = s.cfg ∧ t.host = es

/-- R21: after reset every register reads the last column of the register map, and `DATA` refuses (V140). -/
def Obligations.RegistersReadTheirResetValues : Prop :=
  ∀ (c : Config) (es : List HostEvent) (d : Nat) (off : Nat) (w : Word),
    (off, w) ∈ [(0x00, 0#32), (0x04, 0#32), (0x08, 0#32), (0x0C, 0#32), (0x10, 0#32), (0x14, 0#32),
      (0x18, 0#32), (0x1C, 0#32), (0x20, 0#32), (0x24, 0#32), (0x28, 0xFFFFFFFF#32), (0x2C, 0xFFFFFFFF#32),
      (0x30, 0#32), (0x34, 0#32), (0x38, 0#32)] →
    step (State.resetOf c (.read off 32 :: es) d) =
      .next { State.resetOf c es d with resp := okRead w } ∧
    ∃ x : Word, step (State.resetOf c (.read 0x3C 32 :: es) d) =
      .next { State.resetOf c es (d + 1) with resp := some ⟨.refused, some x⟩ }

/-- The reset state of every instance whose parameters meet R5, and so `State.reset`, is well formed. -/
def Obligations.ResetStateIsWellFormed : Prop :=
  (∀ (c : Config) (es : List HostEvent) (d : Nat), c.Valid → Inv (State.resetOf c es d)) ∧ Inv State.reset

/-! ### The host port -/

/-- R23: what a read of STATUS returns: the two flags, SINGLE, ERRF, and zeros above; nothing else happens. -/
def Obligations.StatusReadsTheFlags : Prop :=
  ∀ (s : State) (es : List HostEvent), s.host = .read 0x04 32 :: es →
    ∃ w : Word, step s = .next { s with host := es, resp := okRead w } ∧
      w.getLsbD 0 = s.treeValid ∧ w.getLsbD 1 = s.codesValid ∧
      w.getLsbD 2 = (s.treeValid && decide (s.nleaf = 1#32)) ∧ w.getLsbD 3 = decide (s.err.code ≠ 0#4) ∧
      w.extractLsb' 4 28 = 0#28

/-- R24: what a read of ERR returns: ERRCODE, ERRSUB, ERROP, and zeros above; nothing else happens. -/
def Obligations.ErrReadsTheLatch : Prop :=
  ∀ (s : State) (es : List HostEvent), s.host = .read 0x08 32 :: es →
    ∃ w : Word, step s = .next { s with host := es, resp := okRead w } ∧
      w.extractLsb' 0 4 = s.err.code ∧ w.extractLsb' 4 4 = s.err.sub ∧ w.extractLsb' 8 8 = s.err.op ∧
      w.extractLsb' 16 16 = 0#16

/-- R61: a read at the offset of each other register returns that register (`CMD` reads 0, R22). -/
def Obligations.RegisterReadsReturnTheRegister : Prop :=
  ∀ (s : State) (es : List HostEvent) (off : Nat) (w : Word), s.host = .read off 32 :: es →
    (off, w) ∈ [(0x00, 0#32), (0x0C, s.err.pos), (0x10, s.err.sym), (0x14, s.tlen), (0x18, s.blen),
      (0x1C, s.olen), (0x20, s.nleaf), (0x24, s.nnode), (0x28, s.root), (0x2C, s.cur), (0x30, s.sel),
      (0x34, s.idx), (0x38, s.sub)] →
    step s = .next { s with host := es, resp := okRead w }

/-- R27, R28, R35, R36, R37: the host's writes of TLEN, BLEN, SEL, IDX and SUB store any value, and nothing
else changes. -/
def Obligations.RegisterWritesStoreAnyValue : Prop :=
  ∀ (s : State) (es : List HostEvent) (v : Word),
    (s.host = .write 0x14 32 v :: es → step s = .next { s with host := es, tlen := v, resp := okWrite }) ∧
    (s.host = .write 0x18 32 v :: es → step s = .next { s with host := es, blen := v, resp := okWrite }) ∧
    (s.host = .write 0x30 32 v :: es → step s = .next { s with host := es, sel := v, resp := okWrite }) ∧
    (s.host = .write 0x34 32 v :: es → step s = .next { s with host := es, idx := v, resp := okWrite }) ∧
    (s.host = .write 0x38 32 v :: es → step s = .next { s with host := es, sub := v, resp := okWrite })

/-- R73: no read has a side effect: whatever the offset and the width, only the answer (and the model's counter
of free values) differs after it. -/
def Obligations.ReadsChangeNothingButTheAnswer : Prop :=
  ∀ (s : State) (off width : Nat) (es : List HostEvent), s.host = .read off width :: es →
    ∃ t : State, step s = .next t ∧ t = { s with host := es, resp := t.resp, draws := t.draws }

/-- R62: the complete list of refusals. A transaction on the list is answered REFUSED and changes nothing; one
that is not on it is answered OK. -/
def Obligations.RefusalsAreExactlyTheNineCases : Prop :=
  ∀ (s : State) (es : List HostEvent),
    (∀ off width, s.host = .read off width :: es →
      (RefusedRead s off width → ∃ (d : Word) (n : Nat),
        step s = .next { s with host := es, resp := some ⟨.refused, some d⟩, draws := n }) ∧
      (¬ RefusedRead s off width → ∃ (d : Word) (t : State), step s = .next t ∧ t.resp = okRead d)) ∧
    (∀ off width v, s.host = .write off width v :: es →
      (RefusedWrite s off width v → step s = .next { s with host := es, resp := refusedWrite }) ∧
      (¬ RefusedWrite s off width v → ∀ t : State, step s = .next t → t.resp = okWrite))

/-- R63 to R69: a read of `DATA` returns the element that SEL, IDX and SUB name, in the format of its space,
where it has been written and is meaningful; nothing else happens. -/
def Obligations.DataReadReturnsTheElement : Prop :=
  ∀ (s : State) (es : List HostEvent) (k : Nat), s.host = .read 0x3C 32 :: es → s.idx.toNat = k →
    (∀ n, s.sel = 1#32 → k < s.cfg.nsymv → s.freq.read k = some n →
      step s = .next { s with host := es, resp := okRead (wordOf n) }) ∧
    (∀ x, s.sel = 2#32 → k < s.cfg.textMax → s.text.read k = some x →
      step s = .next { s with host := es, resp := okRead (wordOf x) }) ∧
    (∀ b, s.sel = 3#32 → k < s.cfg.bitsMax → s.bits.read k = some b →
      step s = .next { s with host := es, resp := okRead (if b then 1#32 else 0#32) }) ∧
    (∀ x, s.sel = 4#32 → k < s.cfg.outMax → s.out.read k = some x →
      step s = .next { s with host := es, resp := okRead (wordOf x) }) ∧
    (∀ nd w, s.sel = 5#32 → k < s.cfg.nodeMax → s.treeValid = true → k < s.nnode.toNat →
      s.node.read k = some nd →
      (s.sub, w) ∈ [(0#32, wordOf nd.w), (1#32, if nd.leaf then 1#32 else 0#32), (2#32, wordOf nd.sym),
        (3#32, nd.left), (4#32, nd.right)] →
      step s = .next { s with host := es, resp := okRead w }) ∧
    (∀ c, s.sel = 6#32 → k < s.cfg.nsymv → s.codesValid = true → s.code.read k = some c →
      step s = .next { s with host := es, resp := okRead (1#1 ++ BitVec.ofNat 31 c.length) }) ∧
    (s.sel = 6#32 → k < s.cfg.nsymv → s.codesValid = true → s.code.read k = none →
      ∃ (d : BitVec 31) (n : Nat),
        step s = .next { s with host := es, resp := okRead (0#1 ++ d), draws := n }) ∧
    (∀ ds b, s.sel = 7#32 → k < s.cfg.nsymv → s.sub.toNat < s.cfg.codeMax → s.codesValid = true →
      s.code.read k = some ds → ds[s.sub.toNat]? = some b →
      step s = .next { s with host := es, resp := okRead (if b then 1#32 else 0#32) })

/-- R80: a read of an element nothing has written is answered OK with some value of the element's width (which
one is left free, log 5). -/
def Obligations.UnwrittenElementsReadAsSomeValue : Prop :=
  ∀ (s : State) (es : List HostEvent) (k : Nat), s.host = .read 0x3C 32 :: es → s.idx.toNat = k →
    (s.sel = 1#32 ∧ k < s.cfg.nsymv ∧ s.freq.read k = none → ∃ (w : Word) (n : Nat),
      step s = .next { s with host := es, resp := okRead w, draws := n } ∧ w.toNat < 2 ^ s.cfg.wW) ∧
    (s.sel = 2#32 ∧ k < s.cfg.textMax ∧ s.text.read k = none → ∃ (w : Word) (n : Nat),
      step s = .next { s with host := es, resp := okRead w, draws := n } ∧ w.toNat < 2 ^ s.cfg.symW) ∧
    (s.sel = 3#32 ∧ k < s.cfg.bitsMax ∧ s.bits.read k = none → ∃ (w : Word) (n : Nat),
      step s = .next { s with host := es, resp := okRead w, draws := n } ∧ w.toNat < 2) ∧
    (s.sel = 4#32 ∧ k < s.cfg.outMax ∧ s.out.read k = none → ∃ (w : Word) (n : Nat),
      step s = .next { s with host := es, resp := okRead w, draws := n } ∧ w.toNat < 2 ^ s.cfg.symW)

/-- R64, R65, R66: a write of `DATA` that fits stores its value at IDX of the selected space; every other
element and everything else stays. -/
def Obligations.DataWriteStoresOneElement : Prop :=
  ∀ (s : State) (es : List HostEvent) (k : Nat) (v : Word), s.host = .write 0x3C 32 v :: es →
    s.idx.toNat = k →
    (s.sel = 1#32 → k < s.cfg.nsymv → v.toNat ≤ s.cfg.wmax → ∃ t : State, step s = .next t ∧
      t = { s with host := es, freq := t.freq, resp := okWrite } ∧ t.freq.read k = some v.toNat ∧
      ∀ j, j ≠ k → t.freq.read j = s.freq.read j) ∧
    (s.sel = 2#32 → k < s.cfg.textMax → v.toNat < 2 ^ s.cfg.symW → ∃ t : State, step s = .next t ∧
      t = { s with host := es, text := t.text, resp := okWrite } ∧ t.text.read k = some v.toNat ∧
      ∀ j, j ≠ k → t.text.read j = s.text.read j) ∧
    (s.sel = 3#32 → k < s.cfg.bitsMax → v.toNat ≤ 1 → ∃ t : State, step s = .next t ∧
      t = { s with host := es, bits := t.bits, resp := okWrite } ∧ t.bits.read k = some (decide (v = 1#32)) ∧
      ∀ j, j ≠ k → t.bits.read j = s.bits.read j)

/-- R219: a block that nobody asks anything of keeps its state. That such a state takes a step at all is the
model's choice (log 2). -/
def Obligations.IdleBlockKeepsItsState : Prop :=
  ∀ s : State, s.host = [] → step s = .next s

/-! ### Rules about the whole machine -/

/-- R39: TREE_VALID is changed only by BUILD, CLEAR and reset, CODES_VALID only by BUILD, GENCODES, CLEAR and
reset. -/
def Obligations.FlagsChangeOnlyByTheirCommands : Prop :=
  ∀ s t : State, step s = .next t →
    (t.treeValid ≠ s.treeValid →
      s.host.head? = some (.write 0x00 32 0x00000002#32) ∨
      s.host.head? = some (.write 0x00 32 0x0000000F#32) ∨
      s.host.head? = some .reset ∨ ∃ v, s.host.head? = some (.cutByReset v)) ∧
    (t.codesValid ≠ s.codesValid →
      s.host.head? = some (.write 0x00 32 0x00000002#32) ∨
      s.host.head? = some (.write 0x00 32 0x00000003#32) ∨
      s.host.head? = some (.write 0x00 32 0x0000000F#32) ∨
      s.host.head? = some .reset ∨ ∃ v, s.host.head? = some (.cutByReset v))

/-- R41 to R46: each memory is written by its own writers alone: FREQ by COUNT, CLEAR and the host; TEXT by the
host; BITS by ENCODE and the host; OUT by DECODE; NODE by BUILD; CODE by GENCODES. (Reset takes every value
away.) The parameters never change. -/
def Obligations.MemoriesChangeOnlyByTheirWriters : Prop :=
  ∀ s t : State, step s = .next t →
    s.host.head? ≠ some .reset → (∀ v, s.host.head? ≠ some (.cutByReset v)) →
    (t.freq ≠ s.freq →
      s.host.head? = some (.write 0x00 32 0x00000001#32) ∨
      s.host.head? = some (.write 0x00 32 0x0000000F#32) ∨
      (s.sel = 1#32 ∧ ∃ v, s.host.head? = some (.write 0x3C 32 v))) ∧
    (t.text ≠ s.text → s.sel = 2#32 ∧ ∃ v, s.host.head? = some (.write 0x3C 32 v)) ∧
    (t.bits ≠ s.bits →
      s.host.head? = some (.write 0x00 32 0x00000004#32) ∨
      (s.sel = 3#32 ∧ ∃ v, s.host.head? = some (.write 0x3C 32 v))) ∧
    (t.out ≠ s.out → s.host.head? = some (.write 0x00 32 0x00000005#32)) ∧
    (t.node ≠ s.node → s.host.head? = some (.write 0x00 32 0x00000002#32)) ∧
    (t.code ≠ s.code → s.host.head? = some (.write 0x00 32 0x00000003#32)) ∧
    t.cfg = s.cfg

/-- Every step keeps every memory in canonical form. -/
def Obligations.EveryStepKeepsMemoriesCanonical : Prop :=
  ∀ s t : State, MemoryForm s → step s = .next t → MemoryForm t

/-- R40, R45, R46: every step keeps every element at an index of its memory and within its width. -/
def Obligations.EveryStepKeepsElementBounds : Prop :=
  ∀ s t : State, s.cfg.Valid → ElementBounds s → step s = .next t → ElementBounds t

/-- R24, R25, R31 to R34, R52: every step keeps the latch to the six codes (all zero with no error), and
without a tree there are no codes, no node counts, no root and no cursor. -/
def Obligations.EveryStepKeepsTheRegisterForm : Prop :=
  ∀ s t : State, RegisterForm s → step s = .next t → RegisterForm t

/-- R51: every step keeps the tree invariants (a) to (f). -/
def Obligations.EveryStepKeepsTheTreeInvariants : Prop :=
  ∀ s t : State, s.cfg.Valid → TreeInv s → step s = .next t → TreeInv t

/-- R52: every step keeps the code-table invariants. -/
def Obligations.EveryStepKeepsTheCodeInvariants : Prop :=
  ∀ s t : State, s.cfg.Valid → TreeInv s → CodeInv s → step s = .next t → CodeInv t

/-- R70, R243: in a state whose tree is a tree every step completes: no command stops, whatever its data. -/
def Obligations.EveryStepCompletes : Prop :=
  (∀ s : State, TreeInv s → ∃ t : State, step s = .next t) ∧
  (∀ (i : Instr) (s : State), TreeInv s → ∃ t : State, exec i s = .next t)

/-! ### Control commands -/

/-- R176: NOP does nothing; its write is answered OK. -/
def Obligations.NopDoesNothing : Prop :=
  ∀ s : State, exec .nop s = .next { s with resp := okWrite }

/-- R177: CLRERR clears the five error fields and nothing else. -/
def Obligations.ClrerrClearsTheLatchOnly : Prop :=
  ∀ s : State, exec .clrerr s = .next { s with err := ⟨0#4, 0#4, 0#8, 0#32, 0#32⟩, resp := okWrite }

/-- R178: CLEAR puts every register at its reset value and every element of FREQ to 0; TEXT, BITS and OUT keep
their contents (NODE and CODE are `UNSPEC` once their flags are 0, so nothing is said of them). -/
def Obligations.ClearResetsRegistersAndFreq : Prop :=
  ∀ s : State, ∃ t : State, exec .clear s = .next t ∧
    (∀ x, x < s.cfg.nsymv → t.freq.read x = some 0) ∧
    t = { s with
      err := ⟨0#4, 0#4, 0#8, 0#32, 0#32⟩, tlen := 0#32, blen := 0#32, olen := 0#32, nleaf := 0#32,
      nnode := 0#32, root := 0xFFFFFFFF#32, cur := 0xFFFFFFFF#32, sel := 0#32, idx := 0#32, sub := 0#32,
      treeValid := false, codesValid := false, freq := t.freq, node := t.node, code := t.code,
      resp := okWrite }

/-! ### COUNT -/

/-- R113, R115: COUNT of a text leaves in FREQ, for every symbol value, the number of its positions (so the sum
of all is the length of the text), and writes nothing else. -/
def Obligations.CountCountsEverySymbol : Prop :=
  ∀ (s : State) (xs : List Nat), s.err.code = 0#4 → TextIs s xs → xs.length ≤ s.cfg.textMax →
    (∀ x ∈ xs, x < s.cfg.nsymv) →
    ∃ t : State, exec .count s = .next t ∧ (∀ x, x < s.cfg.nsymv → t.freq.read x = some (xs.count x)) ∧
      freqSum t = xs.length ∧
      t = { s with freq := t.freq, work := t.work, draws := t.draws, resp := okWrite }

/-- R113: whatever part of the text has been written, COUNT completes, every element of FREQ is defined after it,
and the counts add up to TLEN. Over elements that nothing has written (R80) the sum rests on the model's
deduction that one turn reads TEXT[i] once (log 7). -/
def Obligations.CountsAddUpToTheTextLength : Prop :=
  ∀ s : State, s.err.code = 0#4 → s.tlen.toNat ≤ s.cfg.textMax → (∀ e ∈ s.text, e.2 < s.cfg.nsymv) →
    ∃ t : State, exec .count s = .next t ∧ FreqDefined t ∧ freqSum t = s.tlen.toNat ∧
      t = { s with freq := t.freq, work := t.work, draws := t.draws, resp := okWrite }

/-- R111: COUNT of a text longer than TEXT_MAX raises CapacityExceeded 1 and leaves FREQ as it was. -/
def Obligations.CountOfTooLongTextIsCapacityExceeded : Prop :=
  ∀ s : State, s.err.code = 0#4 → s.cfg.textMax < s.tlen.toNat →
    exec .count s = .next { s with err := ⟨5#4, 1#4, 0x01#8, s.tlen, 0#32⟩, resp := okWrite }

/-! ### BUILD -/

/-- R122, R128: BUILD of a defined table with 1 to MAXLEAF symbols present, whose counts sum to at most WMAX,
completes with a tree: leaf `k` is the `k`-th smallest symbol present with its count, `NLEAF = n`,
`NNODE = 2n-1`, `ROOT = 2n-2`, and the root alone is left in the queue (R47); the codes are withdrawn, and
nothing but the tree is written. -/
def Obligations.BuildCompletesWithATree : Prop :=
  ∀ (s : State) (n : Nat), s.err.code = 0#4 → FreqDefined s → (present s).length = n → 1 ≤ n →
    n ≤ s.cfg.maxLeaf → freqSum s ≤ s.cfg.wmax →
    ∃ t : State, exec .build s = .next t ∧ t.treeValid = true ∧ t.codesValid = false ∧
      t.nleaf = wordOf n ∧ t.nnode = wordOf (2 * n - 1) ∧ t.root = wordOf (2 * n - 2) ∧
      t.cur = 0xFFFFFFFF#32 ∧ t.work.inq = [2 * n - 2] ∧ t.work.qcnt = 1 ∧
      (∀ k x, (present s)[k]? = some x →
        t.node.read k = some ⟨freqAt s x, true, x, 0xFFFFFFFF#32, 0xFFFFFFFF#32⟩) ∧
      t = { s with
        treeValid := t.treeValid, codesValid := t.codesValid, nleaf := t.nleaf, nnode := t.nnode,
        root := t.root, cur := t.cur, node := t.node, code := t.code, work := t.work, draws := t.draws,
        resp := okWrite }

/-- R125 to R127: every internal node BUILD makes pairs the two least nodes of the queue as it stood, the least
as the left child and the next as the right, and weighs their sum. -/
def Obligations.EveryMergeTakesTheTwoLeast : Prop :=
  ∀ (s t : State) (i : Nat), s.cfg.Valid → s.err.code = 0#4 → exec .build s = .next t → t.treeValid = true →
    leaves t ≤ i → i < t.nnode.toNat →
    (t.node.read i).isSome = true ∧ (nodeAt t i).leaf = false ∧ (nodeAt t i).sym = 0 ∧
    queuedAt t (leaves t) i (nodeAt t i).left.toNat ∧ queuedAt t (leaves t) i (nodeAt t i).right.toNat ∧
    (nodeAt t i).left ≠ (nodeAt t i).right ∧
    (nodeAt t i).w = (nodeAt t (nodeAt t i).left.toNat).w + (nodeAt t (nodeAt t i).right.toNat).w ∧
    (∀ j, queuedAt t (leaves t) i j → j ≠ (nodeAt t i).left.toNat →
      keyBefore t (nodeAt t i).left.toNat j) ∧
    (∀ j, queuedAt t (leaves t) i j → j ≠ (nodeAt t i).left.toNat → j ≠ (nodeAt t i).right.toNat →
      keyBefore t (nodeAt t i).right.toNat j)

/-- R125: ExtractMin removes from the queue, and returns, the queued node whose key is least. -/
def Obligations.ExtractMinTakesTheLeastKey : Prop :=
  ∀ s : State, s.work.inq ≠ [] →
    (extractMin s).1 ∈ s.work.inq ∧
    (∀ j ∈ s.work.inq, j ≠ (extractMin s).1 →
      weightOf s.node (extractMin s).1 < weightOf s.node j ∨
      (weightOf s.node (extractMin s).1 = weightOf s.node j ∧ (extractMin s).1 < j)) ∧
    (extractMin s).2 = { s with work := { s.work with
      inq := s.work.inq.erase (extractMin s).1, qcnt := s.work.qcnt - 1 } }

/-- R188: after a BUILD that succeeds every internal node weighs the sum of its children and the root the sum of
all counts. -/
def Obligations.BuiltTreeConservesWeight : Prop :=
  ∀ s t : State, s.cfg.Valid → s.err.code = 0#4 → FreqDefined s → exec .build s = .next t →
    t.treeValid = true →
    (∀ i, t.nleaf.toNat ≤ i → i < t.nnode.toNat →
      (nodeAt t i).w = (nodeAt t (nodeAt t i).left.toNat).w + (nodeAt t (nodeAt t i).right.toNat).w) ∧
    (nodeAt t t.root.toNat).w = freqSum s

/-- R130: two BUILDs from equal tables in blocks of equal parameters give equal arenas, equal registers and, if
they fail, equal errors. -/
def Obligations.BuildIsAFunctionOfTheTable : Prop :=
  ∀ s s' t t' : State, s.err.code = 0#4 → s'.err.code = 0#4 → s.cfg = s'.cfg → FreqDefined s →
    (∀ x, x < s.cfg.nsymv → s.freq.read x = s'.freq.read x) →
    exec .build s = .next t → exec .build s' = .next t' →
    t.treeValid = t'.treeValid ∧ t.nleaf = t'.nleaf ∧ t.nnode = t'.nnode ∧ t.root = t'.root ∧
    (∀ i, i < t.nnode.toNat → t.node.read i = t'.node.read i) ∧
    (t.latched ↔ t'.latched) ∧ (t.latched → t.err = t'.err)

/-- R123: BUILD of an all-zero table raises EmptyAlphabet and leaves the state of R132. -/
def Obligations.BuildOfEmptyTableIsEmptyAlphabet : Prop :=
  ∀ s : State, s.err.code = 0#4 → (∀ x, x < s.cfg.nsymv → s.freq.read x = some 0) →
    ∃ t : State, exec .build s = .next t ∧
      t = { s with
        treeValid := false, codesValid := false, nleaf := 0#32, nnode := 0#32, root := 0xFFFFFFFF#32,
        cur := 0xFFFFFFFF#32, err := ⟨1#4, 0#4, 0x02#8, 0#32, 0#32⟩, node := t.node, code := t.code,
        work := t.work, draws := t.draws, resp := okWrite }

/-- R124: (a) more than MAXLEAF symbols present: CapacityExceeded 2 with the first symbol too many; (b) counts
that sum to more than WMAX: CapacityExceeded 3 with the number of symbols. -/
def Obligations.BuildBeyondCapacityIsCapacityExceeded : Prop :=
  ∀ (s : State), s.err.code = 0#4 → FreqDefined s →
    (∀ x, (present s)[s.cfg.maxLeaf]? = some x → ∃ t : State, exec .build s = .next t ∧
      t.err = ⟨5#4, 2#4, 0x02#8, wordOf s.cfg.maxLeaf, wordOf x⟩ ∧ t.treeValid = false ∧
      t.freq = s.freq ∧ t.resp = okWrite) ∧
    (1 ≤ (present s).length → (present s).length ≤ s.cfg.maxLeaf → s.cfg.wmax < freqSum s →
      ∃ t : State, exec .build s = .next t ∧
      t.err = ⟨5#4, 3#4, 0x02#8, wordOf (present s).length, 0#32⟩ ∧ t.treeValid = false ∧
      t.freq = s.freq ∧ t.resp = okWrite)

/-- R132: whichever error BUILD raises, there is no tree and no code table after it, FREQ is unchanged, and so is
everything that is not the tree's. -/
def Obligations.FailedBuildLeavesNoTree : Prop :=
  ∀ s t : State, s.err.code = 0#4 → exec .build s = .next t → t.latched →
    t = { s with
      treeValid := false, codesValid := false, nleaf := 0#32, nnode := 0#32, root := 0xFFFFFFFF#32,
      cur := 0xFFFFFFFF#32, err := t.err, node := t.node, code := t.code, work := t.work, draws := t.draws,
      resp := okWrite }

/-! ### GENCODES -/

/-- R145: for two leaves or more GENCODES completes and the code of every leaf's symbol is the path from the root
to that leaf; no other symbol has a code; nothing but the table is written. -/
def Obligations.CodesAreTheRootPaths : Prop :=
  ∀ s : State, s.err.code = 0#4 → s.treeValid = true → TreeInv s → 2 ≤ leaves s →
    ∃ t : State, exec .gencodes s = .next t ∧ t.codesValid = true ∧
      (∀ l, l < leaves s → ∃ p, t.code.read (nodeAt s l).sym = some p ∧
        follow s.node s.root p = some (wordOf l)) ∧
      (∀ x, (∀ l, l < leaves s → (nodeAt s l).sym ≠ x) → t.code.read x = none) ∧
      t = { s with
        codesValid := true, code := t.code, work := t.work, draws := t.draws, resp := okWrite }

/-- R143: for the single-symbol tree GENCODES completes with the one entry "0" for that symbol. -/
def Obligations.SingleSymbolGetsTheCodeZero : Prop :=
  ∀ (s : State) (nd : Node), s.err.code = 0#4 → s.treeValid = true → s.nleaf = 1#32 →
    s.node.read s.root.toNat = some nd →
    ∃ t : State, exec .gencodes s = .next t ∧ t.codesValid = true ∧ t.code.read nd.sym = some [false] ∧
      (∀ x, x ≠ nd.sym → t.code.read x = none) ∧
      t = { s with
        codesValid := true, code := t.code, work := t.work, draws := t.draws, resp := okWrite }

/-- R187: whenever CODES_VALID = 1, no code is a prefix of the code of another symbol. -/
def Obligations.CodesArePrefixFree : Prop :=
  ∀ (s : State) (x y : Nat) (c d : Code), TreeInv s → CodeInv s → s.codesValid = true → x ≠ y →
    s.code.read x = some c → s.code.read y = some d → ¬ c <+: d

/-! ### ENCODE -/

/-- R153, R155: ENCODE of a text whose symbols all have codes, and whose codes fit into BITS, completes: BITS
holds the concatenation of the codes in source order, BLEN its length; the elements above keep what they
held and nothing else is written. -/
def Obligations.EncodeConcatenatesTheCodes : Prop :=
  ∀ (s : State) (xs : List Nat) (cs : List Code), s.err.code = 0#4 → s.codesValid = true → TextIs s xs →
    xs.length ≤ s.cfg.textMax → xs.map s.code.read = cs.map some → cs.flatten.length ≤ s.cfg.bitsMax →
    ∃ t : State, exec .encode s = .next t ∧ t.blen = wordOf cs.flatten.length ∧
      HoldsThen t.bits cs.flatten s.bits ∧
      t = { s with
        bits := t.bits, blen := t.blen, work := t.work, draws := t.draws, resp := okWrite }

/-- R154: ENCODE stops at the first symbol without a code with UnknownSymbol, its position and the symbol; BLEN is
0, and the codes of the symbols before it are left in BITS (R155). -/
def Obligations.FirstSymbolWithoutCodeIsUnknown : Prop :=
  ∀ (s : State) (xs : List Nat) (cs : List Code) (x : Nat), s.err.code = 0#4 → s.codesValid = true →
    Holds s.text (xs ++ [x]) → xs.length < s.tlen.toNat → s.tlen.toNat ≤ s.cfg.textMax →
    xs.map s.code.read = cs.map some → cs.flatten.length ≤ s.cfg.bitsMax → s.code.read x = none →
    ∃ t : State, exec .encode s = .next t ∧ t.err = ⟨2#4, 0#4, 0x04#8, wordOf xs.length, wordOf x⟩ ∧
      t.blen = 0#32 ∧ HoldsThen t.bits cs.flatten s.bits ∧
      t = { s with
        err := t.err, bits := t.bits, blen := t.blen, work := t.work, draws := t.draws, resp := okWrite }

/-- R152 (b): ENCODE stops at the first symbol whose code does not fit into what is left of BITS with
CapacityExceeded 4; no bit of that code is written. -/
def Obligations.FirstCodeThatDoesNotFitIsCapacityExceeded : Prop :=
  ∀ (s : State) (xs : List Nat) (cs : List Code) (x : Nat) (c : Code), s.err.code = 0#4 →
    s.codesValid = true → Holds s.text (xs ++ [x]) → xs.length < s.tlen.toNat →
    s.tlen.toNat ≤ s.cfg.textMax → xs.map s.code.read = cs.map some →
    cs.flatten.length ≤ s.cfg.bitsMax → s.code.read x = some c →
    s.cfg.bitsMax < cs.flatten.length + c.length →
    ∃ t : State, exec .encode s = .next t ∧ t.err = ⟨5#4, 4#4, 0x04#8, wordOf xs.length, wordOf x⟩ ∧
      t.blen = 0#32 ∧ HoldsThen t.bits cs.flatten s.bits ∧
      t = { s with
        err := t.err, bits := t.bits, blen := t.blen, work := t.work, draws := t.draws, resp := okWrite }

/-- R152 (a), R162 (a): a length register above its capacity is reported before a buffer is read: by ENCODE with
BLEN 0, by DECODE with OLEN 0 and the cursor at the root (R213). -/
def Obligations.LengthAboveCapacityIsCapacityExceeded : Prop :=
  (∀ s : State, s.err.code = 0#4 → s.codesValid = true → s.cfg.textMax < s.tlen.toNat →
    ∃ t : State, exec .encode s = .next t ∧
      t = { s with
        err := ⟨5#4, 1#4, 0x04#8, s.tlen, 0#32⟩, blen := 0#32, work := t.work, resp := okWrite }) ∧
  (∀ s : State, s.err.code = 0#4 → s.treeValid = true → s.cfg.bitsMax < s.blen.toNat →
    ∃ t : State, exec .decode s = .next t ∧
      t = { s with
        err := ⟨5#4, 1#4, 0x05#8, s.blen, 0#32⟩, olen := 0#32, cur := s.root, work := t.work, resp := okWrite })

/-! ### DECODE -/

/-- R164, R166, R168: under a tree of two leaves or more DECODE of the concatenation of the root paths of some
leaves completes: OUT holds their symbols, OLEN their number, CUR is the root; the elements of OUT above
keep what they held and nothing else is written. -/
def Obligations.DecodeOfWholePathsGivesTheSymbols : Prop :=
  ∀ (s : State) (ls : List Nat) (ps : List (List Bool)), s.err.code = 0#4 → s.treeValid = true →
    TreeInv s → 2 ≤ leaves s → (∀ l ∈ ls, l < leaves s) →
    ps.map (follow s.node s.root) = ls.map (fun l => some (wordOf l)) →
    BitsAre s ps.flatten → ps.flatten.length ≤ s.cfg.bitsMax → ls.length ≤ s.cfg.outMax →
    ∃ t : State, exec .decode s = .next t ∧ t.olen = wordOf ls.length ∧ t.cur = s.root ∧
      HoldsThen t.out (ls.map (fun l => (nodeAt s l).sym)) s.out ∧
      t = { s with
        out := t.out, olen := t.olen, cur := t.cur, work := t.work, draws := t.draws, resp := okWrite }

/-- R166: a stream that ends inside a code, at an internal node other than the root, is MalformedStream 2 with
ERRPOS = BLEN; CUR keeps that node, OLEN is 0 (R168). -/
def Obligations.TruncatedStreamIsMalformed : Prop :=
  ∀ (s : State) (ls : List Nat) (ps : List (List Bool)) (q : List Bool) (i : Word), s.err.code = 0#4 →
    s.treeValid = true → TreeInv s → 2 ≤ leaves s → (∀ l ∈ ls, l < leaves s) →
    ps.map (follow s.node s.root) = ls.map (fun l => some (wordOf l)) →
    q ≠ [] → follow s.node s.root q = some i → (nodeAt s i.toNat).leaf = false →
    BitsAre s (ps.flatten ++ q) → (ps.flatten ++ q).length ≤ s.cfg.bitsMax → ls.length ≤ s.cfg.outMax →
    ∃ t : State, exec .decode s = .next t ∧ t.err = ⟨3#4, 2#4, 0x05#8, s.blen, 0#32⟩ ∧ t.olen = 0#32 ∧
      t.cur = i ∧ HoldsThen t.out (ls.map (fun l => (nodeAt s l).sym)) s.out ∧
      t = { s with
        err := t.err, out := t.out, olen := t.olen, cur := t.cur, work := t.work, draws := t.draws,
        resp := okWrite }

/-- R165: under the single-symbol tree each 0 bit emits the symbol once; the cursor does not move. -/
def Obligations.SingleSymbolDecodesOneSymbolPerZero : Prop :=
  ∀ (s : State) (nd : Node) (k : Nat), s.err.code = 0#4 → s.treeValid = true → s.nleaf = 1#32 →
    s.node.read s.root.toNat = some nd → BitsAre s (List.replicate k false) → k ≤ s.cfg.bitsMax →
    k ≤ s.cfg.outMax →
    ∃ t : State, exec .decode s = .next t ∧ t.olen = wordOf k ∧ t.cur = s.root ∧
      HoldsThen t.out (List.replicate k nd.sym) s.out ∧
      t = { s with
        out := t.out, olen := t.olen, cur := t.cur, work := t.work, draws := t.draws, resp := okWrite }

/-- R165: under the single-symbol tree the first 1 bit is MalformedStream 1 at its position. -/
def Obligations.OneBitUnderSingleSymbolTreeIsMalformed : Prop :=
  ∀ (s : State) (nd : Node) (j : Nat), s.err.code = 0#4 → s.treeValid = true → s.nleaf = 1#32 →
    s.node.read s.root.toNat = some nd → Holds s.bits (List.replicate j false ++ [true]) →
    j < s.blen.toNat → s.blen.toNat ≤ s.cfg.bitsMax → j ≤ s.cfg.outMax →
    ∃ t : State, exec .decode s = .next t ∧ t.err = ⟨3#4, 1#4, 0x05#8, wordOf j, 0#32⟩ ∧ t.olen = 0#32 ∧
      t.cur = s.root ∧ HoldsThen t.out (List.replicate j nd.sym) s.out ∧
      t = { s with
        err := t.err, out := t.out, olen := t.olen, cur := t.cur, work := t.work, draws := t.draws,
        resp := okWrite }

/-- R162 (b): a symbol to be emitted when OUT is full is CapacityExceeded 5 at the bit that completes its code,
with that symbol, which is not written; under a tree of two leaves or more CUR keeps the leaf, under the
single-symbol tree it is the root (R168). -/
def Obligations.SymbolBeyondOutIsCapacityExceeded : Prop :=
  (∀ (s : State) (ls : List Nat) (ps : List (List Bool)) (l : Nat) (p : List Bool), s.err.code = 0#4 →
    s.treeValid = true → TreeInv s → 2 ≤ leaves s → (∀ k ∈ ls, k < leaves s) → l < leaves s →
    ps.map (follow s.node s.root) = ls.map (fun k => some (wordOf k)) →
    follow s.node s.root p = some (wordOf l) →
    Holds s.bits (ps.flatten ++ p) → (ps.flatten ++ p).length ≤ s.blen.toNat →
    s.blen.toNat ≤ s.cfg.bitsMax → ls.length = s.cfg.outMax →
    ∃ t : State, exec .decode s = .next t ∧
      t.err = ⟨5#4, 5#4, 0x05#8, wordOf ((ps.flatten ++ p).length - 1), wordOf (nodeAt s l).sym⟩ ∧
      t.olen = 0#32 ∧ t.cur = wordOf l ∧ HoldsThen t.out (ls.map (fun k => (nodeAt s k).sym)) s.out ∧
      t = { s with
        err := t.err, out := t.out, olen := t.olen, cur := t.cur, work := t.work, draws := t.draws,
        resp := okWrite }) ∧
  (∀ (s : State) (nd : Node), s.err.code = 0#4 → s.treeValid = true → s.nleaf = 1#32 →
    s.node.read s.root.toNat = some nd → Holds s.bits (List.replicate (s.cfg.outMax + 1) false) →
    s.cfg.outMax < s.blen.toNat → s.blen.toNat ≤ s.cfg.bitsMax →
    ∃ t : State, exec .decode s = .next t ∧
      t.err = ⟨5#4, 5#4, 0x05#8, wordOf s.cfg.outMax, wordOf nd.sym⟩ ∧
      t.olen = 0#32 ∧ t.cur = s.root ∧ HoldsThen t.out (List.replicate s.cfg.outMax nd.sym) s.out ∧
      t = { s with
        err := t.err, out := t.out, olen := t.olen, cur := t.cur, work := t.work, draws := t.draws,
        resp := okWrite })

/-! ### The pipeline -/

/-- R186: round trip. From any state with no error latched that holds a text of 1 to min(TEXT_MAX, OUT_MAX)
symbols, at most MAXLEAF of them distinct, COUNT, BUILD and GENCODES complete with a code for every symbol
of the text; and where its encoding fits into BITS, ENCODE and DECODE complete, no error is latched, OLEN is
the length of the text, and OUT holds it. -/
def Obligations.RoundTripRestoresTheText : Prop :=
  ∀ (s : State) (xs : List Nat), s.cfg.Valid → s.err.code = 0#4 → TextIs s xs → 1 ≤ xs.length →
    xs.length ≤ s.cfg.textMax → xs.length ≤ s.cfg.outMax → (∀ x ∈ xs, x < s.cfg.nsymv) →
    xs.dedup.length ≤ s.cfg.maxLeaf →
    ∃ t1 t2 t3 : State, exec .count s = .next t1 ∧ exec .build t1 = .next t2 ∧
      exec .gencodes t2 = .next t3 ∧ (∀ x ∈ xs, (t3.code.read x).isSome = true) ∧
      ((xs.map (fun x => ((t3.code.read x).getD []).length)).sum ≤ s.cfg.bitsMax →
        ∃ t4 t5 : State, exec .encode t3 = .next t4 ∧ exec .decode t4 = .next t5 ∧
          t5.err.code = 0#4 ∧ t5.tlen = s.tlen ∧ t5.olen = s.tlen ∧ Holds t5.out xs ∧ t5.text = s.text)

/-! ### Single writers of the registers -/

/-- R24 to R37: each register is written by its own writers alone, whatever a command reads, elements that nothing
has written included: OLEN by DECODE and CLEAR; NLEAF, NNODE and ROOT by BUILD and CLEAR; CUR by BUILD, DECODE
and CLEAR; BLEN by ENCODE, CLEAR and the host; TLEN, SEL, IDX and SUB by CLEAR and the host; the error latch by a
`CMD` write. (Reset puts all of them at their reset values. That CLEAR writes TLEN is R178's, log 18.) -/
def Obligations.RegistersChangeOnlyByTheirWriters : Prop :=
  ∀ s t : State, step s = .next t →
    s.host.head? ≠ some .reset → (∀ v, s.host.head? ≠ some (.cutByReset v)) →
    s.host.head? ≠ some (.write 0x00 32 0x0000000F#32) →
    (t.olen ≠ s.olen → s.host.head? = some (.write 0x00 32 0x00000005#32)) ∧
    (t.nleaf ≠ s.nleaf ∨ t.nnode ≠ s.nnode ∨ t.root ≠ s.root →
      s.host.head? = some (.write 0x00 32 0x00000002#32)) ∧
    (t.cur ≠ s.cur →
      s.host.head? = some (.write 0x00 32 0x00000002#32) ∨
      s.host.head? = some (.write 0x00 32 0x00000005#32)) ∧
    (t.blen ≠ s.blen →
      s.host.head? = some (.write 0x00 32 0x00000004#32) ∨
      ∃ v, s.host.head? = some (.write 0x18 32 v)) ∧
    (t.tlen ≠ s.tlen → ∃ v, s.host.head? = some (.write 0x14 32 v)) ∧
    (t.sel ≠ s.sel → ∃ v, s.host.head? = some (.write 0x30 32 v)) ∧
    (t.idx ≠ s.idx → ∃ v, s.host.head? = some (.write 0x34 32 v)) ∧
    (t.sub ≠ s.sub → ∃ v, s.host.head? = some (.write 0x38 32 v)) ∧
    (t.err ≠ s.err → ∃ v, s.host.head? = some (.write 0x00 32 v))
end

