-- ==== Sys2Proof/Laws/Memory.lean ====
section
/-! SUPPORT. The laws of a memory: reading after writing, and that every operation keeps the canonical form. -/

namespace Sys2Proof.Machine

variable {α : Type}

/-! ### Reading after writing -/

@[simp] theorem Memory.read_nil (k : Nat) : Memory.read ([] : Memory α) k = none := rfl

@[simp] theorem Memory.read_write_same (m : Memory α) (k : Nat) (v : α) : (m.write k v).read k = some v := by
  induction m with
  | nil => simp [Memory.write, Memory.read]
  | cons e m ih =>
    obtain ⟨j, a⟩ := e
    simp only [Memory.write]
    split
    · simp [Memory.read]
    · split
      · simp [Memory.read]
      · next h _ => simp [Memory.read, h, ih]

theorem Memory.read_write_other (m : Memory α) {k j : Nat} (v : α) (h : j ≠ k) :
    (m.write k v).read j = m.read j := by
  induction m with
  | nil => simp [Memory.write, Memory.read, h.symm]
  | cons e m ih =>
    obtain ⟨i, a⟩ := e
    simp only [Memory.write]
    split
    · next hi => subst hi; simp [Memory.read, h.symm]
    · split
      · simp [Memory.read, h.symm]
      · simp [Memory.read, ih]

/-- A write, read anywhere. -/
theorem Memory.read_write (m : Memory α) (k j : Nat) (v : α) :
    (m.write k v).read j = if j = k then some v else m.read j := by
  split
  · next h => subst h; exact Memory.read_write_same m j v
  · next h => exact Memory.read_write_other m v h

/-- What a run of writes leaves, read anywhere. -/
theorem Memory.read_writeRun (m : Memory α) (k j : Nat) (vs : List α) :
    (m.writeRun k vs).read j =
      if k ≤ j ∧ j < k + vs.length then vs[j - k]? else m.read j := by
  induction vs generalizing m k with
  | nil => simp [Memory.writeRun]
  | cons v vs ih =>
    simp only [Memory.writeRun, ih, Memory.read_write, List.length_cons]
    by_cases hj : j = k
    · subst hj; simp
    · by_cases hlt : k + 1 ≤ j ∧ j < k + 1 + vs.length
      · have h2 : k ≤ j ∧ j < k + (vs.length + 1) := by omega
        have h3 : j - k = (j - (k + 1)) + 1 := by omega
        rw [if_pos hlt, if_pos h2, h3, List.getElem?_cons_succ]
      · have h2 : ¬ (k ≤ j ∧ j < k + (vs.length + 1)) := by omega
        rw [if_neg hlt, if_neg h2, if_neg hj]

/-- A listed element is an entry. -/
theorem Memory.mem_of_read {m : Memory α} {k : Nat} {v : α} (h : m.read k = some v) : (k, v) ∈ m := by
  induction m with
  | nil => simp at h
  | cons e m ih =>
    obtain ⟨j, a⟩ := e
    simp only [Memory.read] at h
    split at h
    · next hj => cases h; simp [hj]
    · exact List.mem_cons_of_mem _ (ih h)

/-- The entries after a write are the new one and some of the old ones. -/
theorem Memory.mem_write {m : Memory α} {k : Nat} {v : α} {e : Nat × α} (h : e ∈ m.write k v) :
    e = (k, v) ∨ e ∈ m := by
  induction m with
  | nil => simpa [Memory.write] using h
  | cons d m ih =>
    obtain ⟨j, a⟩ := d
    simp only [Memory.write] at h
    split at h
    · rcases List.mem_cons.1 h with h | h
      · exact .inl h
      · exact .inr (List.mem_cons_of_mem _ h)
    · split at h
      · rcases List.mem_cons.1 h with h | h
        · exact .inl h
        · exact .inr h
      · rcases List.mem_cons.1 h with h | h
        · exact .inr (h ▸ List.mem_cons_self)
        · exact (ih h).imp id (List.mem_cons_of_mem _)

/-- The entries after a run of writes. -/
theorem Memory.mem_writeRun {m : Memory α} {k : Nat} {vs : List α} {e : Nat × α} (h : e ∈ m.writeRun k vs) :
    (k ≤ e.1 ∧ e.1 < k + vs.length ∧ e.2 ∈ vs) ∨ e ∈ m := by
  induction vs generalizing m k with
  | nil => exact .inr h
  | cons v vs ih =>
    rcases ih h with ⟨h1, h2, h3⟩ | h
    · exact .inl ⟨by omega, by simp only [List.length_cons]; omega, List.mem_cons_of_mem _ h3⟩
    · rcases Memory.mem_write h with rfl | h
      · exact .inl ⟨by simp, by simp, by simp⟩
      · exact .inr h

/-- A cleared memory, read anywhere. -/
theorem Memory.read_filled (n k : Nat) (v : α) :
    (Memory.filled n v).read k = if k < n then some v else none := by
  have key : ∀ l : List Nat, Memory.read (l.map (fun i => (i, v))) k = if k ∈ l then some v else none := by
    intro l
    induction l with
    | nil => simp
    | cons i l ih =>
      simp only [List.map_cons, Memory.read, ih, List.mem_cons]
      by_cases h : i = k
      · simp [h]
      · have h' : k ≠ i := fun e => h e.symm
        simp [h, h']
  simpa [Memory.filled] using key (List.range n)

/-! ### The canonical form -/

/-- The canonical form, said of the head and the rest. -/
theorem Memory.wf_cons (e : Nat × α) (m : Memory α) :
    Memory.wf (e :: m) = true ↔ (∀ d ∈ m, e.1 < d.1) ∧ Memory.wf m = true := by
  induction m generalizing e with
  | nil => simp [Memory.wf]
  | cons d m ih =>
    obtain ⟨j, a⟩ := e
    obtain ⟨k, b⟩ := d
    simp only [Memory.wf, Bool.and_eq_true, decide_eq_true_eq, List.mem_cons, forall_eq_or_imp]
    constructor
    · rintro ⟨h1, h2⟩
      exact ⟨⟨h1, fun d hd => lt_trans h1 (((ih _).1 h2).1 d hd)⟩, h2⟩
    · rintro ⟨⟨h1, -⟩, h2⟩
      exact ⟨h1, h2⟩

theorem Memory.wf_nil : Memory.wf ([] : Memory α) = true := rfl

/-- A write keeps the canonical form. -/
theorem Memory.wf_write {m : Memory α} (k : Nat) (v : α) (h : Memory.wf m = true) :
    Memory.wf (m.write k v) = true := by
  induction m with
  | nil => rfl
  | cons e m ih =>
    obtain ⟨j, a⟩ := e
    obtain ⟨h1, h2⟩ := (Memory.wf_cons _ _).1 h
    simp only [Memory.write]
    split
    · next hj => subst hj; exact (Memory.wf_cons _ _).2 ⟨h1, h2⟩
    · split
      · next hlt =>
        refine (Memory.wf_cons _ _).2 ⟨fun d hd => ?_, h⟩
        rcases List.mem_cons.1 hd with rfl | hd
        · exact hlt
        · exact lt_trans hlt (h1 d hd)
      · next hne hge =>
        refine (Memory.wf_cons _ _).2 ⟨fun d hd => ?_, ih h2⟩
        rcases Memory.mem_write hd with rfl | hd
        · show j < k; omega
        · exact h1 d hd

/-- A run of writes keeps the canonical form. -/
theorem Memory.wf_writeRun {m : Memory α} (k : Nat) (vs : List α) (h : Memory.wf m = true) :
    Memory.wf (m.writeRun k vs) = true := by
  induction vs generalizing m k with
  | nil => exact h
  | cons v vs ih => exact ih (k + 1) (Memory.wf_write k v h)

/-- A cleared memory is in canonical form. -/
theorem Memory.wf_filled (n : Nat) (v : α) : Memory.wf (Memory.filled n v) = true := by
  have key : ∀ (l : List Nat), l.Pairwise (· < ·) → Memory.wf (l.map (fun i => (i, v))) = true := by
    intro l
    induction l with
    | nil => intro _; rfl
    | cons i l ih =>
      intro h
      obtain ⟨h1, h2⟩ := List.pairwise_cons.1 h
      refine (Memory.wf_cons _ _).2 ⟨fun d hd => ?_, ih h2⟩
      obtain ⟨j, hj, rfl⟩ := List.mem_map.1 hd
      exact h1 j hj
  exact key _ List.pairwise_lt_range

/-- In canonical form an entry is what its index reads as. -/
theorem Memory.read_of_mem {m : Memory α} {k : Nat} {v : α} (hw : Memory.wf m = true) (h : (k, v) ∈ m) :
    m.read k = some v := by
  induction m with
  | nil => simp at h
  | cons e m ih =>
    obtain ⟨j, a⟩ := e
    obtain ⟨h1, h2⟩ := (Memory.wf_cons _ _).1 hw
    rcases List.mem_cons.1 h with h | h
    · cases h; simp [Memory.read]
    · have hlt : j < k := h1 _ h
      simp [Memory.read, hlt.ne, ih h2 h]

/-- Two memories in canonical form that read alike everywhere are the same data. -/
theorem Memory.ext_read {m n : Memory α} (hm : Memory.wf m = true) (hn : Memory.wf n = true)
    (h : ∀ k, m.read k = n.read k) : m = n := by
  induction m generalizing n with
  | nil =>
    cases n with
    | nil => rfl
    | cons d n => obtain ⟨k, b⟩ := d; have := h k; simp [Memory.read] at this
  | cons e m ih =>
    obtain ⟨j, a⟩ := e
    cases n with
    | nil => have := h j; simp [Memory.read] at this
    | cons d n =>
      obtain ⟨k, b⟩ := d
      obtain ⟨h1, h2⟩ := (Memory.wf_cons _ _).1 hm
      obtain ⟨h3, h4⟩ := (Memory.wf_cons _ _).1 hn
      have hjk : j = k := by
        have ha : (j, a) ∈ (k, b) :: n := Memory.mem_of_read ((h j).symm.trans (by simp [Memory.read]))
        have hb : (k, b) ∈ (j, a) :: m := Memory.mem_of_read ((h k).trans (by simp [Memory.read]))
        rcases List.mem_cons.1 ha with ha | ha <;> rcases List.mem_cons.1 hb with hb | hb
        · exact congrArg Prod.fst ha
        · exact congrArg Prod.fst ha
        · exact (congrArg Prod.fst hb).symm
        · have := h1 _ hb; have := h3 _ ha; simp only at *; omega
      subst hjk
      have hab : a = b := by have := h j; simpa [Memory.read] using this
      subst hab
      congr 1
      refine ih h2 h4 (fun i => ?_)
      by_cases hi : j = i
      · subst hi
        have e1 : Memory.read m j = none := by
          cases hr : Memory.read m j with
          | none => rfl
          | some v => exact absurd (h1 _ (Memory.mem_of_read hr)) (lt_irrefl _)
        have e2 : Memory.read n j = none := by
          cases hr : Memory.read n j with
          | none => rfl
          | some v => exact absurd (h3 _ (Memory.mem_of_read hr)) (lt_irrefl _)
        rw [e1, e2]
      · simpa [Memory.read, hi] using h i

end Sys2Proof.Machine
end

