-- ==== Sys2Proof/Laws/State.lean ====
section
/-! SUPPORT. What each update of the state does to each field: one lemma a field, true by `rfl`, so that no later proof
unfolds a record update. -/

namespace Sys2Proof.Machine

/-! ### raise -/

@[simp] theorem raise_cfg (o : BitVec 8) (kd : ErrKind) (sb : BitVec 4) (p : Word) (x : Nat) (s : State) :
    (raise o kd sb p x s).cfg = s.cfg := rfl
@[simp] theorem raise_err (o : BitVec 8) (kd : ErrKind) (sb : BitVec 4) (p : Word) (x : Nat) (s : State) :
    (raise o kd sb p x s).err = ⟨kd.code, sb, o, p, wordOf x⟩ := rfl
@[simp] theorem raise_tlen (o : BitVec 8) (kd : ErrKind) (sb : BitVec 4) (p : Word) (x : Nat) (s : State) :
    (raise o kd sb p x s).tlen = s.tlen := rfl
@[simp] theorem raise_blen (o : BitVec 8) (kd : ErrKind) (sb : BitVec 4) (p : Word) (x : Nat) (s : State) :
    (raise o kd sb p x s).blen = s.blen := rfl
@[simp] theorem raise_olen (o : BitVec 8) (kd : ErrKind) (sb : BitVec 4) (p : Word) (x : Nat) (s : State) :
    (raise o kd sb p x s).olen = s.olen := rfl
@[simp] theorem raise_nleaf (o : BitVec 8) (kd : ErrKind) (sb : BitVec 4) (p : Word) (x : Nat) (s : State) :
    (raise o kd sb p x s).nleaf = s.nleaf := rfl
@[simp] theorem raise_nnode (o : BitVec 8) (kd : ErrKind) (sb : BitVec 4) (p : Word) (x : Nat) (s : State) :
    (raise o kd sb p x s).nnode = s.nnode := rfl
@[simp] theorem raise_root (o : BitVec 8) (kd : ErrKind) (sb : BitVec 4) (p : Word) (x : Nat) (s : State) :
    (raise o kd sb p x s).root = s.root := rfl
@[simp] theorem raise_cur (o : BitVec 8) (kd : ErrKind) (sb : BitVec 4) (p : Word) (x : Nat) (s : State) :
    (raise o kd sb p x s).cur = s.cur := rfl
@[simp] theorem raise_sel (o : BitVec 8) (kd : ErrKind) (sb : BitVec 4) (p : Word) (x : Nat) (s : State) :
    (raise o kd sb p x s).sel = s.sel := rfl
@[simp] theorem raise_idx (o : BitVec 8) (kd : ErrKind) (sb : BitVec 4) (p : Word) (x : Nat) (s : State) :
    (raise o kd sb p x s).idx = s.idx := rfl
@[simp] theorem raise_sub (o : BitVec 8) (kd : ErrKind) (sb : BitVec 4) (p : Word) (x : Nat) (s : State) :
    (raise o kd sb p x s).sub = s.sub := rfl
@[simp] theorem raise_treeValid (o : BitVec 8) (kd : ErrKind) (sb : BitVec 4) (p : Word) (x : Nat) (s : State) :
    (raise o kd sb p x s).treeValid = s.treeValid := rfl
@[simp] theorem raise_codesValid (o : BitVec 8) (kd : ErrKind) (sb : BitVec 4) (p : Word) (x : Nat) (s : State) :
    (raise o kd sb p x s).codesValid = s.codesValid := rfl
@[simp] theorem raise_freq (o : BitVec 8) (kd : ErrKind) (sb : BitVec 4) (p : Word) (x : Nat) (s : State) :
    (raise o kd sb p x s).freq = s.freq := rfl
@[simp] theorem raise_text (o : BitVec 8) (kd : ErrKind) (sb : BitVec 4) (p : Word) (x : Nat) (s : State) :
    (raise o kd sb p x s).text = s.text := rfl
@[simp] theorem raise_bits (o : BitVec 8) (kd : ErrKind) (sb : BitVec 4) (p : Word) (x : Nat) (s : State) :
    (raise o kd sb p x s).bits = s.bits := rfl
@[simp] theorem raise_out (o : BitVec 8) (kd : ErrKind) (sb : BitVec 4) (p : Word) (x : Nat) (s : State) :
    (raise o kd sb p x s).out = s.out := rfl
@[simp] theorem raise_node (o : BitVec 8) (kd : ErrKind) (sb : BitVec 4) (p : Word) (x : Nat) (s : State) :
    (raise o kd sb p x s).node = s.node := rfl
@[simp] theorem raise_code (o : BitVec 8) (kd : ErrKind) (sb : BitVec 4) (p : Word) (x : Nat) (s : State) :
    (raise o kd sb p x s).code = s.code := rfl
@[simp] theorem raise_work (o : BitVec 8) (kd : ErrKind) (sb : BitVec 4) (p : Word) (x : Nat) (s : State) :
    (raise o kd sb p x s).work = s.work := rfl
@[simp] theorem raise_host (o : BitVec 8) (kd : ErrKind) (sb : BitVec 4) (p : Word) (x : Nat) (s : State) :
    (raise o kd sb p x s).host = s.host := rfl
@[simp] theorem raise_resp (o : BitVec 8) (kd : ErrKind) (sb : BitVec 4) (p : Word) (x : Nat) (s : State) :
    (raise o kd sb p x s).resp = s.resp := rfl
@[simp] theorem raise_draws (o : BitVec 8) (kd : ErrKind) (sb : BitVec 4) (p : Word) (x : Nat) (s : State) :
    (raise o kd sb p x s).draws = s.draws := rfl

/-! ### clearErr -/

@[simp] theorem clearErr_cfg (s : State) :
    (clearErr s).cfg = s.cfg := rfl
@[simp] theorem clearErr_err (s : State) :
    (clearErr s).err = ErrLatch.none := rfl
@[simp] theorem clearErr_tlen (s : State) :
    (clearErr s).tlen = s.tlen := rfl
@[simp] theorem clearErr_blen (s : State) :
    (clearErr s).blen = s.blen := rfl
@[simp] theorem clearErr_olen (s : State) :
    (clearErr s).olen = s.olen := rfl
@[simp] theorem clearErr_nleaf (s : State) :
    (clearErr s).nleaf = s.nleaf := rfl
@[simp] theorem clearErr_nnode (s : State) :
    (clearErr s).nnode = s.nnode := rfl
@[simp] theorem clearErr_root (s : State) :
    (clearErr s).root = s.root := rfl
@[simp] theorem clearErr_cur (s : State) :
    (clearErr s).cur = s.cur := rfl
@[simp] theorem clearErr_sel (s : State) :
    (clearErr s).sel = s.sel := rfl
@[simp] theorem clearErr_idx (s : State) :
    (clearErr s).idx = s.idx := rfl
@[simp] theorem clearErr_sub (s : State) :
    (clearErr s).sub = s.sub := rfl
@[simp] theorem clearErr_treeValid (s : State) :
    (clearErr s).treeValid = s.treeValid := rfl
@[simp] theorem clearErr_codesValid (s : State) :
    (clearErr s).codesValid = s.codesValid := rfl
@[simp] theorem clearErr_freq (s : State) :
    (clearErr s).freq = s.freq := rfl
@[simp] theorem clearErr_text (s : State) :
    (clearErr s).text = s.text := rfl
@[simp] theorem clearErr_bits (s : State) :
    (clearErr s).bits = s.bits := rfl
@[simp] theorem clearErr_out (s : State) :
    (clearErr s).out = s.out := rfl
@[simp] theorem clearErr_node (s : State) :
    (clearErr s).node = s.node := rfl
@[simp] theorem clearErr_code (s : State) :
    (clearErr s).code = s.code := rfl
@[simp] theorem clearErr_work (s : State) :
    (clearErr s).work = s.work := rfl
@[simp] theorem clearErr_host (s : State) :
    (clearErr s).host = s.host := rfl
@[simp] theorem clearErr_resp (s : State) :
    (clearErr s).resp = s.resp := rfl
@[simp] theorem clearErr_draws (s : State) :
    (clearErr s).draws = s.draws := rfl

/-! ### answerWrite -/

@[simp] theorem answerWrite_cfg (s : State) :
    (answerWrite s).cfg = s.cfg := rfl
@[simp] theorem answerWrite_err (s : State) :
    (answerWrite s).err = s.err := rfl
@[simp] theorem answerWrite_tlen (s : State) :
    (answerWrite s).tlen = s.tlen := rfl
@[simp] theorem answerWrite_blen (s : State) :
    (answerWrite s).blen = s.blen := rfl
@[simp] theorem answerWrite_olen (s : State) :
    (answerWrite s).olen = s.olen := rfl
@[simp] theorem answerWrite_nleaf (s : State) :
    (answerWrite s).nleaf = s.nleaf := rfl
@[simp] theorem answerWrite_nnode (s : State) :
    (answerWrite s).nnode = s.nnode := rfl
@[simp] theorem answerWrite_root (s : State) :
    (answerWrite s).root = s.root := rfl
@[simp] theorem answerWrite_cur (s : State) :
    (answerWrite s).cur = s.cur := rfl
@[simp] theorem answerWrite_sel (s : State) :
    (answerWrite s).sel = s.sel := rfl
@[simp] theorem answerWrite_idx (s : State) :
    (answerWrite s).idx = s.idx := rfl
@[simp] theorem answerWrite_sub (s : State) :
    (answerWrite s).sub = s.sub := rfl
@[simp] theorem answerWrite_treeValid (s : State) :
    (answerWrite s).treeValid = s.treeValid := rfl
@[simp] theorem answerWrite_codesValid (s : State) :
    (answerWrite s).codesValid = s.codesValid := rfl
@[simp] theorem answerWrite_freq (s : State) :
    (answerWrite s).freq = s.freq := rfl
@[simp] theorem answerWrite_text (s : State) :
    (answerWrite s).text = s.text := rfl
@[simp] theorem answerWrite_bits (s : State) :
    (answerWrite s).bits = s.bits := rfl
@[simp] theorem answerWrite_out (s : State) :
    (answerWrite s).out = s.out := rfl
@[simp] theorem answerWrite_node (s : State) :
    (answerWrite s).node = s.node := rfl
@[simp] theorem answerWrite_code (s : State) :
    (answerWrite s).code = s.code := rfl
@[simp] theorem answerWrite_work (s : State) :
    (answerWrite s).work = s.work := rfl
@[simp] theorem answerWrite_host (s : State) :
    (answerWrite s).host = s.host := rfl
@[simp] theorem answerWrite_resp (s : State) :
    (answerWrite s).resp = some ⟨.ok, none⟩ := rfl
@[simp] theorem answerWrite_draws (s : State) :
    (answerWrite s).draws = s.draws := rfl

/-! ### answerRead -/

@[simp] theorem answerRead_cfg (d : Word) (s : State) :
    (answerRead d s).cfg = s.cfg := rfl
@[simp] theorem answerRead_err (d : Word) (s : State) :
    (answerRead d s).err = s.err := rfl
@[simp] theorem answerRead_tlen (d : Word) (s : State) :
    (answerRead d s).tlen = s.tlen := rfl
@[simp] theorem answerRead_blen (d : Word) (s : State) :
    (answerRead d s).blen = s.blen := rfl
@[simp] theorem answerRead_olen (d : Word) (s : State) :
    (answerRead d s).olen = s.olen := rfl
@[simp] theorem answerRead_nleaf (d : Word) (s : State) :
    (answerRead d s).nleaf = s.nleaf := rfl
@[simp] theorem answerRead_nnode (d : Word) (s : State) :
    (answerRead d s).nnode = s.nnode := rfl
@[simp] theorem answerRead_root (d : Word) (s : State) :
    (answerRead d s).root = s.root := rfl
@[simp] theorem answerRead_cur (d : Word) (s : State) :
    (answerRead d s).cur = s.cur := rfl
@[simp] theorem answerRead_sel (d : Word) (s : State) :
    (answerRead d s).sel = s.sel := rfl
@[simp] theorem answerRead_idx (d : Word) (s : State) :
    (answerRead d s).idx = s.idx := rfl
@[simp] theorem answerRead_sub (d : Word) (s : State) :
    (answerRead d s).sub = s.sub := rfl
@[simp] theorem answerRead_treeValid (d : Word) (s : State) :
    (answerRead d s).treeValid = s.treeValid := rfl
@[simp] theorem answerRead_codesValid (d : Word) (s : State) :
    (answerRead d s).codesValid = s.codesValid := rfl
@[simp] theorem answerRead_freq (d : Word) (s : State) :
    (answerRead d s).freq = s.freq := rfl
@[simp] theorem answerRead_text (d : Word) (s : State) :
    (answerRead d s).text = s.text := rfl
@[simp] theorem answerRead_bits (d : Word) (s : State) :
    (answerRead d s).bits = s.bits := rfl
@[simp] theorem answerRead_out (d : Word) (s : State) :
    (answerRead d s).out = s.out := rfl
@[simp] theorem answerRead_node (d : Word) (s : State) :
    (answerRead d s).node = s.node := rfl
@[simp] theorem answerRead_code (d : Word) (s : State) :
    (answerRead d s).code = s.code := rfl
@[simp] theorem answerRead_work (d : Word) (s : State) :
    (answerRead d s).work = s.work := rfl
@[simp] theorem answerRead_host (d : Word) (s : State) :
    (answerRead d s).host = s.host := rfl
@[simp] theorem answerRead_resp (d : Word) (s : State) :
    (answerRead d s).resp = some ⟨.ok, some d⟩ := rfl
@[simp] theorem answerRead_draws (d : Word) (s : State) :
    (answerRead d s).draws = s.draws := rfl

/-! ### refuseWrite -/

@[simp] theorem refuseWrite_cfg (s : State) :
    (refuseWrite s).cfg = s.cfg := rfl
@[simp] theorem refuseWrite_err (s : State) :
    (refuseWrite s).err = s.err := rfl
@[simp] theorem refuseWrite_tlen (s : State) :
    (refuseWrite s).tlen = s.tlen := rfl
@[simp] theorem refuseWrite_blen (s : State) :
    (refuseWrite s).blen = s.blen := rfl
@[simp] theorem refuseWrite_olen (s : State) :
    (refuseWrite s).olen = s.olen := rfl
@[simp] theorem refuseWrite_nleaf (s : State) :
    (refuseWrite s).nleaf = s.nleaf := rfl
@[simp] theorem refuseWrite_nnode (s : State) :
    (refuseWrite s).nnode = s.nnode := rfl
@[simp] theorem refuseWrite_root (s : State) :
    (refuseWrite s).root = s.root := rfl
@[simp] theorem refuseWrite_cur (s : State) :
    (refuseWrite s).cur = s.cur := rfl
@[simp] theorem refuseWrite_sel (s : State) :
    (refuseWrite s).sel = s.sel := rfl
@[simp] theorem refuseWrite_idx (s : State) :
    (refuseWrite s).idx = s.idx := rfl
@[simp] theorem refuseWrite_sub (s : State) :
    (refuseWrite s).sub = s.sub := rfl
@[simp] theorem refuseWrite_treeValid (s : State) :
    (refuseWrite s).treeValid = s.treeValid := rfl
@[simp] theorem refuseWrite_codesValid (s : State) :
    (refuseWrite s).codesValid = s.codesValid := rfl
@[simp] theorem refuseWrite_freq (s : State) :
    (refuseWrite s).freq = s.freq := rfl
@[simp] theorem refuseWrite_text (s : State) :
    (refuseWrite s).text = s.text := rfl
@[simp] theorem refuseWrite_bits (s : State) :
    (refuseWrite s).bits = s.bits := rfl
@[simp] theorem refuseWrite_out (s : State) :
    (refuseWrite s).out = s.out := rfl
@[simp] theorem refuseWrite_node (s : State) :
    (refuseWrite s).node = s.node := rfl
@[simp] theorem refuseWrite_code (s : State) :
    (refuseWrite s).code = s.code := rfl
@[simp] theorem refuseWrite_work (s : State) :
    (refuseWrite s).work = s.work := rfl
@[simp] theorem refuseWrite_host (s : State) :
    (refuseWrite s).host = s.host := rfl
@[simp] theorem refuseWrite_resp (s : State) :
    (refuseWrite s).resp = some ⟨.refused, none⟩ := rfl
@[simp] theorem refuseWrite_draws (s : State) :
    (refuseWrite s).draws = s.draws := rfl

/-! ### refuseRead -/

@[simp] theorem refuseRead_cfg (s : State) :
    (refuseRead s).cfg = s.cfg := rfl
@[simp] theorem refuseRead_err (s : State) :
    (refuseRead s).err = s.err := rfl
@[simp] theorem refuseRead_tlen (s : State) :
    (refuseRead s).tlen = s.tlen := rfl
@[simp] theorem refuseRead_blen (s : State) :
    (refuseRead s).blen = s.blen := rfl
@[simp] theorem refuseRead_olen (s : State) :
    (refuseRead s).olen = s.olen := rfl
@[simp] theorem refuseRead_nleaf (s : State) :
    (refuseRead s).nleaf = s.nleaf := rfl
@[simp] theorem refuseRead_nnode (s : State) :
    (refuseRead s).nnode = s.nnode := rfl
@[simp] theorem refuseRead_root (s : State) :
    (refuseRead s).root = s.root := rfl
@[simp] theorem refuseRead_cur (s : State) :
    (refuseRead s).cur = s.cur := rfl
@[simp] theorem refuseRead_sel (s : State) :
    (refuseRead s).sel = s.sel := rfl
@[simp] theorem refuseRead_idx (s : State) :
    (refuseRead s).idx = s.idx := rfl
@[simp] theorem refuseRead_sub (s : State) :
    (refuseRead s).sub = s.sub := rfl
@[simp] theorem refuseRead_treeValid (s : State) :
    (refuseRead s).treeValid = s.treeValid := rfl
@[simp] theorem refuseRead_codesValid (s : State) :
    (refuseRead s).codesValid = s.codesValid := rfl
@[simp] theorem refuseRead_freq (s : State) :
    (refuseRead s).freq = s.freq := rfl
@[simp] theorem refuseRead_text (s : State) :
    (refuseRead s).text = s.text := rfl
@[simp] theorem refuseRead_bits (s : State) :
    (refuseRead s).bits = s.bits := rfl
@[simp] theorem refuseRead_out (s : State) :
    (refuseRead s).out = s.out := rfl
@[simp] theorem refuseRead_node (s : State) :
    (refuseRead s).node = s.node := rfl
@[simp] theorem refuseRead_code (s : State) :
    (refuseRead s).code = s.code := rfl
@[simp] theorem refuseRead_work (s : State) :
    (refuseRead s).work = s.work := rfl
@[simp] theorem refuseRead_host (s : State) :
    (refuseRead s).host = s.host := rfl
@[simp] theorem refuseRead_resp (s : State) :
    (refuseRead s).resp = some ⟨.refused, some (drawWord s).1⟩ := rfl
@[simp] theorem refuseRead_draws (s : State) :
    (refuseRead s).draws = s.draws + 1 := rfl

/-! ### drawWord -/

@[simp] theorem drawWord_cfg (s : State) :
    ((drawWord s).2).cfg = s.cfg := rfl
@[simp] theorem drawWord_err (s : State) :
    ((drawWord s).2).err = s.err := rfl
@[simp] theorem drawWord_tlen (s : State) :
    ((drawWord s).2).tlen = s.tlen := rfl
@[simp] theorem drawWord_blen (s : State) :
    ((drawWord s).2).blen = s.blen := rfl
@[simp] theorem drawWord_olen (s : State) :
    ((drawWord s).2).olen = s.olen := rfl
@[simp] theorem drawWord_nleaf (s : State) :
    ((drawWord s).2).nleaf = s.nleaf := rfl
@[simp] theorem drawWord_nnode (s : State) :
    ((drawWord s).2).nnode = s.nnode := rfl
@[simp] theorem drawWord_root (s : State) :
    ((drawWord s).2).root = s.root := rfl
@[simp] theorem drawWord_cur (s : State) :
    ((drawWord s).2).cur = s.cur := rfl
@[simp] theorem drawWord_sel (s : State) :
    ((drawWord s).2).sel = s.sel := rfl
@[simp] theorem drawWord_idx (s : State) :
    ((drawWord s).2).idx = s.idx := rfl
@[simp] theorem drawWord_sub (s : State) :
    ((drawWord s).2).sub = s.sub := rfl
@[simp] theorem drawWord_treeValid (s : State) :
    ((drawWord s).2).treeValid = s.treeValid := rfl
@[simp] theorem drawWord_codesValid (s : State) :
    ((drawWord s).2).codesValid = s.codesValid := rfl
@[simp] theorem drawWord_freq (s : State) :
    ((drawWord s).2).freq = s.freq := rfl
@[simp] theorem drawWord_text (s : State) :
    ((drawWord s).2).text = s.text := rfl
@[simp] theorem drawWord_bits (s : State) :
    ((drawWord s).2).bits = s.bits := rfl
@[simp] theorem drawWord_out (s : State) :
    ((drawWord s).2).out = s.out := rfl
@[simp] theorem drawWord_node (s : State) :
    ((drawWord s).2).node = s.node := rfl
@[simp] theorem drawWord_code (s : State) :
    ((drawWord s).2).code = s.code := rfl
@[simp] theorem drawWord_work (s : State) :
    ((drawWord s).2).work = s.work := rfl
@[simp] theorem drawWord_host (s : State) :
    ((drawWord s).2).host = s.host := rfl
@[simp] theorem drawWord_resp (s : State) :
    ((drawWord s).2).resp = s.resp := rfl
@[simp] theorem drawWord_draws (s : State) :
    ((drawWord s).2).draws = s.draws + 1 := rfl

/-! ### writeFreq -/

@[simp] theorem writeFreq_cfg (k v : Nat) (s : State) :
    (writeFreq k v s).cfg = s.cfg := rfl
@[simp] theorem writeFreq_err (k v : Nat) (s : State) :
    (writeFreq k v s).err = s.err := rfl
@[simp] theorem writeFreq_tlen (k v : Nat) (s : State) :
    (writeFreq k v s).tlen = s.tlen := rfl
@[simp] theorem writeFreq_blen (k v : Nat) (s : State) :
    (writeFreq k v s).blen = s.blen := rfl
@[simp] theorem writeFreq_olen (k v : Nat) (s : State) :
    (writeFreq k v s).olen = s.olen := rfl
@[simp] theorem writeFreq_nleaf (k v : Nat) (s : State) :
    (writeFreq k v s).nleaf = s.nleaf := rfl
@[simp] theorem writeFreq_nnode (k v : Nat) (s : State) :
    (writeFreq k v s).nnode = s.nnode := rfl
@[simp] theorem writeFreq_root (k v : Nat) (s : State) :
    (writeFreq k v s).root = s.root := rfl
@[simp] theorem writeFreq_cur (k v : Nat) (s : State) :
    (writeFreq k v s).cur = s.cur := rfl
@[simp] theorem writeFreq_sel (k v : Nat) (s : State) :
    (writeFreq k v s).sel = s.sel := rfl
@[simp] theorem writeFreq_idx (k v : Nat) (s : State) :
    (writeFreq k v s).idx = s.idx := rfl
@[simp] theorem writeFreq_sub (k v : Nat) (s : State) :
    (writeFreq k v s).sub = s.sub := rfl
@[simp] theorem writeFreq_treeValid (k v : Nat) (s : State) :
    (writeFreq k v s).treeValid = s.treeValid := rfl
@[simp] theorem writeFreq_codesValid (k v : Nat) (s : State) :
    (writeFreq k v s).codesValid = s.codesValid := rfl
@[simp] theorem writeFreq_freq (k v : Nat) (s : State) :
    (writeFreq k v s).freq = s.freq.write k v := rfl
@[simp] theorem writeFreq_text (k v : Nat) (s : State) :
    (writeFreq k v s).text = s.text := rfl
@[simp] theorem writeFreq_bits (k v : Nat) (s : State) :
    (writeFreq k v s).bits = s.bits := rfl
@[simp] theorem writeFreq_out (k v : Nat) (s : State) :
    (writeFreq k v s).out = s.out := rfl
@[simp] theorem writeFreq_node (k v : Nat) (s : State) :
    (writeFreq k v s).node = s.node := rfl
@[simp] theorem writeFreq_code (k v : Nat) (s : State) :
    (writeFreq k v s).code = s.code := rfl
@[simp] theorem writeFreq_work (k v : Nat) (s : State) :
    (writeFreq k v s).work = s.work := rfl
@[simp] theorem writeFreq_host (k v : Nat) (s : State) :
    (writeFreq k v s).host = s.host := rfl
@[simp] theorem writeFreq_resp (k v : Nat) (s : State) :
    (writeFreq k v s).resp = s.resp := rfl
@[simp] theorem writeFreq_draws (k v : Nat) (s : State) :
    (writeFreq k v s).draws = s.draws := rfl

/-! ### writeOut -/

@[simp] theorem writeOut_cfg (k v : Nat) (s : State) :
    (writeOut k v s).cfg = s.cfg := rfl
@[simp] theorem writeOut_err (k v : Nat) (s : State) :
    (writeOut k v s).err = s.err := rfl
@[simp] theorem writeOut_tlen (k v : Nat) (s : State) :
    (writeOut k v s).tlen = s.tlen := rfl
@[simp] theorem writeOut_blen (k v : Nat) (s : State) :
    (writeOut k v s).blen = s.blen := rfl
@[simp] theorem writeOut_olen (k v : Nat) (s : State) :
    (writeOut k v s).olen = s.olen := rfl
@[simp] theorem writeOut_nleaf (k v : Nat) (s : State) :
    (writeOut k v s).nleaf = s.nleaf := rfl
@[simp] theorem writeOut_nnode (k v : Nat) (s : State) :
    (writeOut k v s).nnode = s.nnode := rfl
@[simp] theorem writeOut_root (k v : Nat) (s : State) :
    (writeOut k v s).root = s.root := rfl
@[simp] theorem writeOut_cur (k v : Nat) (s : State) :
    (writeOut k v s).cur = s.cur := rfl
@[simp] theorem writeOut_sel (k v : Nat) (s : State) :
    (writeOut k v s).sel = s.sel := rfl
@[simp] theorem writeOut_idx (k v : Nat) (s : State) :
    (writeOut k v s).idx = s.idx := rfl
@[simp] theorem writeOut_sub (k v : Nat) (s : State) :
    (writeOut k v s).sub = s.sub := rfl
@[simp] theorem writeOut_treeValid (k v : Nat) (s : State) :
    (writeOut k v s).treeValid = s.treeValid := rfl
@[simp] theorem writeOut_codesValid (k v : Nat) (s : State) :
    (writeOut k v s).codesValid = s.codesValid := rfl
@[simp] theorem writeOut_freq (k v : Nat) (s : State) :
    (writeOut k v s).freq = s.freq := rfl
@[simp] theorem writeOut_text (k v : Nat) (s : State) :
    (writeOut k v s).text = s.text := rfl
@[simp] theorem writeOut_bits (k v : Nat) (s : State) :
    (writeOut k v s).bits = s.bits := rfl
@[simp] theorem writeOut_out (k v : Nat) (s : State) :
    (writeOut k v s).out = s.out.write k v := rfl
@[simp] theorem writeOut_node (k v : Nat) (s : State) :
    (writeOut k v s).node = s.node := rfl
@[simp] theorem writeOut_code (k v : Nat) (s : State) :
    (writeOut k v s).code = s.code := rfl
@[simp] theorem writeOut_work (k v : Nat) (s : State) :
    (writeOut k v s).work = s.work := rfl
@[simp] theorem writeOut_host (k v : Nat) (s : State) :
    (writeOut k v s).host = s.host := rfl
@[simp] theorem writeOut_resp (k v : Nat) (s : State) :
    (writeOut k v s).resp = s.resp := rfl
@[simp] theorem writeOut_draws (k v : Nat) (s : State) :
    (writeOut k v s).draws = s.draws := rfl

/-! ### writeNode -/

@[simp] theorem writeNode_cfg (k : Nat) (nd : Node) (s : State) :
    (writeNode k nd s).cfg = s.cfg := rfl
@[simp] theorem writeNode_err (k : Nat) (nd : Node) (s : State) :
    (writeNode k nd s).err = s.err := rfl
@[simp] theorem writeNode_tlen (k : Nat) (nd : Node) (s : State) :
    (writeNode k nd s).tlen = s.tlen := rfl
@[simp] theorem writeNode_blen (k : Nat) (nd : Node) (s : State) :
    (writeNode k nd s).blen = s.blen := rfl
@[simp] theorem writeNode_olen (k : Nat) (nd : Node) (s : State) :
    (writeNode k nd s).olen = s.olen := rfl
@[simp] theorem writeNode_nleaf (k : Nat) (nd : Node) (s : State) :
    (writeNode k nd s).nleaf = s.nleaf := rfl
@[simp] theorem writeNode_nnode (k : Nat) (nd : Node) (s : State) :
    (writeNode k nd s).nnode = s.nnode := rfl
@[simp] theorem writeNode_root (k : Nat) (nd : Node) (s : State) :
    (writeNode k nd s).root = s.root := rfl
@[simp] theorem writeNode_cur (k : Nat) (nd : Node) (s : State) :
    (writeNode k nd s).cur = s.cur := rfl
@[simp] theorem writeNode_sel (k : Nat) (nd : Node) (s : State) :
    (writeNode k nd s).sel = s.sel := rfl
@[simp] theorem writeNode_idx (k : Nat) (nd : Node) (s : State) :
    (writeNode k nd s).idx = s.idx := rfl
@[simp] theorem writeNode_sub (k : Nat) (nd : Node) (s : State) :
    (writeNode k nd s).sub = s.sub := rfl
@[simp] theorem writeNode_treeValid (k : Nat) (nd : Node) (s : State) :
    (writeNode k nd s).treeValid = s.treeValid := rfl
@[simp] theorem writeNode_codesValid (k : Nat) (nd : Node) (s : State) :
    (writeNode k nd s).codesValid = s.codesValid := rfl
@[simp] theorem writeNode_freq (k : Nat) (nd : Node) (s : State) :
    (writeNode k nd s).freq = s.freq := rfl
@[simp] theorem writeNode_text (k : Nat) (nd : Node) (s : State) :
    (writeNode k nd s).text = s.text := rfl
@[simp] theorem writeNode_bits (k : Nat) (nd : Node) (s : State) :
    (writeNode k nd s).bits = s.bits := rfl
@[simp] theorem writeNode_out (k : Nat) (nd : Node) (s : State) :
    (writeNode k nd s).out = s.out := rfl
@[simp] theorem writeNode_node (k : Nat) (nd : Node) (s : State) :
    (writeNode k nd s).node = s.node.write k nd := rfl
@[simp] theorem writeNode_code (k : Nat) (nd : Node) (s : State) :
    (writeNode k nd s).code = s.code := rfl
@[simp] theorem writeNode_work (k : Nat) (nd : Node) (s : State) :
    (writeNode k nd s).work = s.work := rfl
@[simp] theorem writeNode_host (k : Nat) (nd : Node) (s : State) :
    (writeNode k nd s).host = s.host := rfl
@[simp] theorem writeNode_resp (k : Nat) (nd : Node) (s : State) :
    (writeNode k nd s).resp = s.resp := rfl
@[simp] theorem writeNode_draws (k : Nat) (nd : Node) (s : State) :
    (writeNode k nd s).draws = s.draws := rfl

/-! ### writeCode -/

@[simp] theorem writeCode_cfg (k : Nat) (c : Code) (s : State) :
    (writeCode k c s).cfg = s.cfg := rfl
@[simp] theorem writeCode_err (k : Nat) (c : Code) (s : State) :
    (writeCode k c s).err = s.err := rfl
@[simp] theorem writeCode_tlen (k : Nat) (c : Code) (s : State) :
    (writeCode k c s).tlen = s.tlen := rfl
@[simp] theorem writeCode_blen (k : Nat) (c : Code) (s : State) :
    (writeCode k c s).blen = s.blen := rfl
@[simp] theorem writeCode_olen (k : Nat) (c : Code) (s : State) :
    (writeCode k c s).olen = s.olen := rfl
@[simp] theorem writeCode_nleaf (k : Nat) (c : Code) (s : State) :
    (writeCode k c s).nleaf = s.nleaf := rfl
@[simp] theorem writeCode_nnode (k : Nat) (c : Code) (s : State) :
    (writeCode k c s).nnode = s.nnode := rfl
@[simp] theorem writeCode_root (k : Nat) (c : Code) (s : State) :
    (writeCode k c s).root = s.root := rfl
@[simp] theorem writeCode_cur (k : Nat) (c : Code) (s : State) :
    (writeCode k c s).cur = s.cur := rfl
@[simp] theorem writeCode_sel (k : Nat) (c : Code) (s : State) :
    (writeCode k c s).sel = s.sel := rfl
@[simp] theorem writeCode_idx (k : Nat) (c : Code) (s : State) :
    (writeCode k c s).idx = s.idx := rfl
@[simp] theorem writeCode_sub (k : Nat) (c : Code) (s : State) :
    (writeCode k c s).sub = s.sub := rfl
@[simp] theorem writeCode_treeValid (k : Nat) (c : Code) (s : State) :
    (writeCode k c s).treeValid = s.treeValid := rfl
@[simp] theorem writeCode_codesValid (k : Nat) (c : Code) (s : State) :
    (writeCode k c s).codesValid = s.codesValid := rfl
@[simp] theorem writeCode_freq (k : Nat) (c : Code) (s : State) :
    (writeCode k c s).freq = s.freq := rfl
@[simp] theorem writeCode_text (k : Nat) (c : Code) (s : State) :
    (writeCode k c s).text = s.text := rfl
@[simp] theorem writeCode_bits (k : Nat) (c : Code) (s : State) :
    (writeCode k c s).bits = s.bits := rfl
@[simp] theorem writeCode_out (k : Nat) (c : Code) (s : State) :
    (writeCode k c s).out = s.out := rfl
@[simp] theorem writeCode_node (k : Nat) (c : Code) (s : State) :
    (writeCode k c s).node = s.node := rfl
@[simp] theorem writeCode_code (k : Nat) (c : Code) (s : State) :
    (writeCode k c s).code = s.code.write k c := rfl
@[simp] theorem writeCode_work (k : Nat) (c : Code) (s : State) :
    (writeCode k c s).work = s.work := rfl
@[simp] theorem writeCode_host (k : Nat) (c : Code) (s : State) :
    (writeCode k c s).host = s.host := rfl
@[simp] theorem writeCode_resp (k : Nat) (c : Code) (s : State) :
    (writeCode k c s).resp = s.resp := rfl
@[simp] theorem writeCode_draws (k : Nat) (c : Code) (s : State) :
    (writeCode k c s).draws = s.draws := rfl

/-! ### writeBitRun -/

@[simp] theorem writeBitRun_cfg (k : Nat) (ds : List Bool) (s : State) :
    (writeBitRun k ds s).cfg = s.cfg := rfl
@[simp] theorem writeBitRun_err (k : Nat) (ds : List Bool) (s : State) :
    (writeBitRun k ds s).err = s.err := rfl
@[simp] theorem writeBitRun_tlen (k : Nat) (ds : List Bool) (s : State) :
    (writeBitRun k ds s).tlen = s.tlen := rfl
@[simp] theorem writeBitRun_blen (k : Nat) (ds : List Bool) (s : State) :
    (writeBitRun k ds s).blen = s.blen := rfl
@[simp] theorem writeBitRun_olen (k : Nat) (ds : List Bool) (s : State) :
    (writeBitRun k ds s).olen = s.olen := rfl
@[simp] theorem writeBitRun_nleaf (k : Nat) (ds : List Bool) (s : State) :
    (writeBitRun k ds s).nleaf = s.nleaf := rfl
@[simp] theorem writeBitRun_nnode (k : Nat) (ds : List Bool) (s : State) :
    (writeBitRun k ds s).nnode = s.nnode := rfl
@[simp] theorem writeBitRun_root (k : Nat) (ds : List Bool) (s : State) :
    (writeBitRun k ds s).root = s.root := rfl
@[simp] theorem writeBitRun_cur (k : Nat) (ds : List Bool) (s : State) :
    (writeBitRun k ds s).cur = s.cur := rfl
@[simp] theorem writeBitRun_sel (k : Nat) (ds : List Bool) (s : State) :
    (writeBitRun k ds s).sel = s.sel := rfl
@[simp] theorem writeBitRun_idx (k : Nat) (ds : List Bool) (s : State) :
    (writeBitRun k ds s).idx = s.idx := rfl
@[simp] theorem writeBitRun_sub (k : Nat) (ds : List Bool) (s : State) :
    (writeBitRun k ds s).sub = s.sub := rfl
@[simp] theorem writeBitRun_treeValid (k : Nat) (ds : List Bool) (s : State) :
    (writeBitRun k ds s).treeValid = s.treeValid := rfl
@[simp] theorem writeBitRun_codesValid (k : Nat) (ds : List Bool) (s : State) :
    (writeBitRun k ds s).codesValid = s.codesValid := rfl
@[simp] theorem writeBitRun_freq (k : Nat) (ds : List Bool) (s : State) :
    (writeBitRun k ds s).freq = s.freq := rfl
@[simp] theorem writeBitRun_text (k : Nat) (ds : List Bool) (s : State) :
    (writeBitRun k ds s).text = s.text := rfl
@[simp] theorem writeBitRun_bits (k : Nat) (ds : List Bool) (s : State) :
    (writeBitRun k ds s).bits = s.bits.writeRun k ds := rfl
@[simp] theorem writeBitRun_out (k : Nat) (ds : List Bool) (s : State) :
    (writeBitRun k ds s).out = s.out := rfl
@[simp] theorem writeBitRun_node (k : Nat) (ds : List Bool) (s : State) :
    (writeBitRun k ds s).node = s.node := rfl
@[simp] theorem writeBitRun_code (k : Nat) (ds : List Bool) (s : State) :
    (writeBitRun k ds s).code = s.code := rfl
@[simp] theorem writeBitRun_work (k : Nat) (ds : List Bool) (s : State) :
    (writeBitRun k ds s).work = s.work := rfl
@[simp] theorem writeBitRun_host (k : Nat) (ds : List Bool) (s : State) :
    (writeBitRun k ds s).host = s.host := rfl
@[simp] theorem writeBitRun_resp (k : Nat) (ds : List Bool) (s : State) :
    (writeBitRun k ds s).resp = s.resp := rfl
@[simp] theorem writeBitRun_draws (k : Nat) (ds : List Bool) (s : State) :
    (writeBitRun k ds s).draws = s.draws := rfl

/-! ### withdrawTree -/

@[simp] theorem withdrawTree_cfg (s : State) :
    (withdrawTree s).cfg = s.cfg := rfl
@[simp] theorem withdrawTree_err (s : State) :
    (withdrawTree s).err = s.err := rfl
@[simp] theorem withdrawTree_tlen (s : State) :
    (withdrawTree s).tlen = s.tlen := rfl
@[simp] theorem withdrawTree_blen (s : State) :
    (withdrawTree s).blen = s.blen := rfl
@[simp] theorem withdrawTree_olen (s : State) :
    (withdrawTree s).olen = s.olen := rfl
@[simp] theorem withdrawTree_nleaf (s : State) :
    (withdrawTree s).nleaf = 0#32 := rfl
@[simp] theorem withdrawTree_nnode (s : State) :
    (withdrawTree s).nnode = 0#32 := rfl
@[simp] theorem withdrawTree_root (s : State) :
    (withdrawTree s).root = nilIndex := rfl
@[simp] theorem withdrawTree_cur (s : State) :
    (withdrawTree s).cur = nilIndex := rfl
@[simp] theorem withdrawTree_sel (s : State) :
    (withdrawTree s).sel = s.sel := rfl
@[simp] theorem withdrawTree_idx (s : State) :
    (withdrawTree s).idx = s.idx := rfl
@[simp] theorem withdrawTree_sub (s : State) :
    (withdrawTree s).sub = s.sub := rfl
@[simp] theorem withdrawTree_treeValid (s : State) :
    (withdrawTree s).treeValid = false := rfl
@[simp] theorem withdrawTree_codesValid (s : State) :
    (withdrawTree s).codesValid = false := rfl
@[simp] theorem withdrawTree_freq (s : State) :
    (withdrawTree s).freq = s.freq := rfl
@[simp] theorem withdrawTree_text (s : State) :
    (withdrawTree s).text = s.text := rfl
@[simp] theorem withdrawTree_bits (s : State) :
    (withdrawTree s).bits = s.bits := rfl
@[simp] theorem withdrawTree_out (s : State) :
    (withdrawTree s).out = s.out := rfl
@[simp] theorem withdrawTree_node (s : State) :
    (withdrawTree s).node = s.node := rfl
@[simp] theorem withdrawTree_code (s : State) :
    (withdrawTree s).code = s.code := rfl
@[simp] theorem withdrawTree_work (s : State) :
    (withdrawTree s).work = s.work := rfl
@[simp] theorem withdrawTree_host (s : State) :
    (withdrawTree s).host = s.host := rfl
@[simp] theorem withdrawTree_resp (s : State) :
    (withdrawTree s).resp = s.resp := rfl
@[simp] theorem withdrawTree_draws (s : State) :
    (withdrawTree s).draws = s.draws := rfl

/-! ### moveCur -/

@[simp] theorem moveCur_cfg (i : Word) (s : State) :
    (moveCur i s).cfg = s.cfg := rfl
@[simp] theorem moveCur_err (i : Word) (s : State) :
    (moveCur i s).err = s.err := rfl
@[simp] theorem moveCur_tlen (i : Word) (s : State) :
    (moveCur i s).tlen = s.tlen := rfl
@[simp] theorem moveCur_blen (i : Word) (s : State) :
    (moveCur i s).blen = s.blen := rfl
@[simp] theorem moveCur_olen (i : Word) (s : State) :
    (moveCur i s).olen = s.olen := rfl
@[simp] theorem moveCur_nleaf (i : Word) (s : State) :
    (moveCur i s).nleaf = s.nleaf := rfl
@[simp] theorem moveCur_nnode (i : Word) (s : State) :
    (moveCur i s).nnode = s.nnode := rfl
@[simp] theorem moveCur_root (i : Word) (s : State) :
    (moveCur i s).root = s.root := rfl
@[simp] theorem moveCur_cur (i : Word) (s : State) :
    (moveCur i s).cur = i := rfl
@[simp] theorem moveCur_sel (i : Word) (s : State) :
    (moveCur i s).sel = s.sel := rfl
@[simp] theorem moveCur_idx (i : Word) (s : State) :
    (moveCur i s).idx = s.idx := rfl
@[simp] theorem moveCur_sub (i : Word) (s : State) :
    (moveCur i s).sub = s.sub := rfl
@[simp] theorem moveCur_treeValid (i : Word) (s : State) :
    (moveCur i s).treeValid = s.treeValid := rfl
@[simp] theorem moveCur_codesValid (i : Word) (s : State) :
    (moveCur i s).codesValid = s.codesValid := rfl
@[simp] theorem moveCur_freq (i : Word) (s : State) :
    (moveCur i s).freq = s.freq := rfl
@[simp] theorem moveCur_text (i : Word) (s : State) :
    (moveCur i s).text = s.text := rfl
@[simp] theorem moveCur_bits (i : Word) (s : State) :
    (moveCur i s).bits = s.bits := rfl
@[simp] theorem moveCur_out (i : Word) (s : State) :
    (moveCur i s).out = s.out := rfl
@[simp] theorem moveCur_node (i : Word) (s : State) :
    (moveCur i s).node = s.node := rfl
@[simp] theorem moveCur_code (i : Word) (s : State) :
    (moveCur i s).code = s.code := rfl
@[simp] theorem moveCur_work (i : Word) (s : State) :
    (moveCur i s).work = s.work := rfl
@[simp] theorem moveCur_host (i : Word) (s : State) :
    (moveCur i s).host = s.host := rfl
@[simp] theorem moveCur_resp (i : Word) (s : State) :
    (moveCur i s).resp = s.resp := rfl
@[simp] theorem moveCur_draws (i : Word) (s : State) :
    (moveCur i s).draws = s.draws := rfl

/-! ### nextBit -/

@[simp] theorem nextBit_cfg (s : State) :
    (nextBit s).cfg = s.cfg := rfl
@[simp] theorem nextBit_err (s : State) :
    (nextBit s).err = s.err := rfl
@[simp] theorem nextBit_tlen (s : State) :
    (nextBit s).tlen = s.tlen := rfl
@[simp] theorem nextBit_blen (s : State) :
    (nextBit s).blen = s.blen := rfl
@[simp] theorem nextBit_olen (s : State) :
    (nextBit s).olen = s.olen := rfl
@[simp] theorem nextBit_nleaf (s : State) :
    (nextBit s).nleaf = s.nleaf := rfl
@[simp] theorem nextBit_nnode (s : State) :
    (nextBit s).nnode = s.nnode := rfl
@[simp] theorem nextBit_root (s : State) :
    (nextBit s).root = s.root := rfl
@[simp] theorem nextBit_cur (s : State) :
    (nextBit s).cur = s.cur := rfl
@[simp] theorem nextBit_sel (s : State) :
    (nextBit s).sel = s.sel := rfl
@[simp] theorem nextBit_idx (s : State) :
    (nextBit s).idx = s.idx := rfl
@[simp] theorem nextBit_sub (s : State) :
    (nextBit s).sub = s.sub := rfl
@[simp] theorem nextBit_treeValid (s : State) :
    (nextBit s).treeValid = s.treeValid := rfl
@[simp] theorem nextBit_codesValid (s : State) :
    (nextBit s).codesValid = s.codesValid := rfl
@[simp] theorem nextBit_freq (s : State) :
    (nextBit s).freq = s.freq := rfl
@[simp] theorem nextBit_text (s : State) :
    (nextBit s).text = s.text := rfl
@[simp] theorem nextBit_bits (s : State) :
    (nextBit s).bits = s.bits := rfl
@[simp] theorem nextBit_out (s : State) :
    (nextBit s).out = s.out := rfl
@[simp] theorem nextBit_node (s : State) :
    (nextBit s).node = s.node := rfl
@[simp] theorem nextBit_code (s : State) :
    (nextBit s).code = s.code := rfl
@[simp] theorem nextBit_work (s : State) :
    (nextBit s).work = { s.work with bpos := s.work.bpos + 1 } := rfl
@[simp] theorem nextBit_host (s : State) :
    (nextBit s).host = s.host := rfl
@[simp] theorem nextBit_resp (s : State) :
    (nextBit s).resp = s.resp := rfl
@[simp] theorem nextBit_draws (s : State) :
    (nextBit s).draws = s.draws := rfl

/-! ### advanceScan -/

@[simp] theorem advanceScan_cfg (s : State) :
    (advanceScan s).cfg = s.cfg := rfl
@[simp] theorem advanceScan_err (s : State) :
    (advanceScan s).err = s.err := rfl
@[simp] theorem advanceScan_tlen (s : State) :
    (advanceScan s).tlen = s.tlen := rfl
@[simp] theorem advanceScan_blen (s : State) :
    (advanceScan s).blen = s.blen := rfl
@[simp] theorem advanceScan_olen (s : State) :
    (advanceScan s).olen = s.olen := rfl
@[simp] theorem advanceScan_nleaf (s : State) :
    (advanceScan s).nleaf = s.nleaf := rfl
@[simp] theorem advanceScan_nnode (s : State) :
    (advanceScan s).nnode = s.nnode := rfl
@[simp] theorem advanceScan_root (s : State) :
    (advanceScan s).root = s.root := rfl
@[simp] theorem advanceScan_cur (s : State) :
    (advanceScan s).cur = s.cur := rfl
@[simp] theorem advanceScan_sel (s : State) :
    (advanceScan s).sel = s.sel := rfl
@[simp] theorem advanceScan_idx (s : State) :
    (advanceScan s).idx = s.idx := rfl
@[simp] theorem advanceScan_sub (s : State) :
    (advanceScan s).sub = s.sub := rfl
@[simp] theorem advanceScan_treeValid (s : State) :
    (advanceScan s).treeValid = s.treeValid := rfl
@[simp] theorem advanceScan_codesValid (s : State) :
    (advanceScan s).codesValid = s.codesValid := rfl
@[simp] theorem advanceScan_freq (s : State) :
    (advanceScan s).freq = s.freq := rfl
@[simp] theorem advanceScan_text (s : State) :
    (advanceScan s).text = s.text := rfl
@[simp] theorem advanceScan_bits (s : State) :
    (advanceScan s).bits = s.bits := rfl
@[simp] theorem advanceScan_out (s : State) :
    (advanceScan s).out = s.out := rfl
@[simp] theorem advanceScan_node (s : State) :
    (advanceScan s).node = s.node := rfl
@[simp] theorem advanceScan_code (s : State) :
    (advanceScan s).code = s.code := rfl
@[simp] theorem advanceScan_work (s : State) :
    (advanceScan s).work = { s.work with scan := s.work.scan + 1 } := rfl
@[simp] theorem advanceScan_host (s : State) :
    (advanceScan s).host = s.host := rfl
@[simp] theorem advanceScan_resp (s : State) :
    (advanceScan s).resp = s.resp := rfl
@[simp] theorem advanceScan_draws (s : State) :
    (advanceScan s).draws = s.draws := rfl

/-! ### dequeue -/

@[simp] theorem dequeue_cfg (a : Nat) (s : State) :
    (dequeue a s).cfg = s.cfg := rfl
@[simp] theorem dequeue_err (a : Nat) (s : State) :
    (dequeue a s).err = s.err := rfl
@[simp] theorem dequeue_tlen (a : Nat) (s : State) :
    (dequeue a s).tlen = s.tlen := rfl
@[simp] theorem dequeue_blen (a : Nat) (s : State) :
    (dequeue a s).blen = s.blen := rfl
@[simp] theorem dequeue_olen (a : Nat) (s : State) :
    (dequeue a s).olen = s.olen := rfl
@[simp] theorem dequeue_nleaf (a : Nat) (s : State) :
    (dequeue a s).nleaf = s.nleaf := rfl
@[simp] theorem dequeue_nnode (a : Nat) (s : State) :
    (dequeue a s).nnode = s.nnode := rfl
@[simp] theorem dequeue_root (a : Nat) (s : State) :
    (dequeue a s).root = s.root := rfl
@[simp] theorem dequeue_cur (a : Nat) (s : State) :
    (dequeue a s).cur = s.cur := rfl
@[simp] theorem dequeue_sel (a : Nat) (s : State) :
    (dequeue a s).sel = s.sel := rfl
@[simp] theorem dequeue_idx (a : Nat) (s : State) :
    (dequeue a s).idx = s.idx := rfl
@[simp] theorem dequeue_sub (a : Nat) (s : State) :
    (dequeue a s).sub = s.sub := rfl
@[simp] theorem dequeue_treeValid (a : Nat) (s : State) :
    (dequeue a s).treeValid = s.treeValid := rfl
@[simp] theorem dequeue_codesValid (a : Nat) (s : State) :
    (dequeue a s).codesValid = s.codesValid := rfl
@[simp] theorem dequeue_freq (a : Nat) (s : State) :
    (dequeue a s).freq = s.freq := rfl
@[simp] theorem dequeue_text (a : Nat) (s : State) :
    (dequeue a s).text = s.text := rfl
@[simp] theorem dequeue_bits (a : Nat) (s : State) :
    (dequeue a s).bits = s.bits := rfl
@[simp] theorem dequeue_out (a : Nat) (s : State) :
    (dequeue a s).out = s.out := rfl
@[simp] theorem dequeue_node (a : Nat) (s : State) :
    (dequeue a s).node = s.node := rfl
@[simp] theorem dequeue_code (a : Nat) (s : State) :
    (dequeue a s).code = s.code := rfl
@[simp] theorem dequeue_work (a : Nat) (s : State) :
    (dequeue a s).work = { s.work with inq := s.work.inq.erase a, qcnt := s.work.qcnt - 1 } := rfl
@[simp] theorem dequeue_host (a : Nat) (s : State) :
    (dequeue a s).host = s.host := rfl
@[simp] theorem dequeue_resp (a : Nat) (s : State) :
    (dequeue a s).resp = s.resp := rfl
@[simp] theorem dequeue_draws (a : Nat) (s : State) :
    (dequeue a s).draws = s.draws := rfl

/-! ### appendNode -/

@[simp] theorem appendNode_cfg (nd : Node) (s : State) :
    (appendNode nd s).cfg = s.cfg := rfl
@[simp] theorem appendNode_err (nd : Node) (s : State) :
    (appendNode nd s).err = s.err := rfl
@[simp] theorem appendNode_tlen (nd : Node) (s : State) :
    (appendNode nd s).tlen = s.tlen := rfl
@[simp] theorem appendNode_blen (nd : Node) (s : State) :
    (appendNode nd s).blen = s.blen := rfl
@[simp] theorem appendNode_olen (nd : Node) (s : State) :
    (appendNode nd s).olen = s.olen := rfl
@[simp] theorem appendNode_nleaf (nd : Node) (s : State) :
    (appendNode nd s).nleaf = s.nleaf := rfl
@[simp] theorem appendNode_nnode (nd : Node) (s : State) :
    (appendNode nd s).nnode = s.nnode := rfl
@[simp] theorem appendNode_root (nd : Node) (s : State) :
    (appendNode nd s).root = s.root := rfl
@[simp] theorem appendNode_cur (nd : Node) (s : State) :
    (appendNode nd s).cur = s.cur := rfl
@[simp] theorem appendNode_sel (nd : Node) (s : State) :
    (appendNode nd s).sel = s.sel := rfl
@[simp] theorem appendNode_idx (nd : Node) (s : State) :
    (appendNode nd s).idx = s.idx := rfl
@[simp] theorem appendNode_sub (nd : Node) (s : State) :
    (appendNode nd s).sub = s.sub := rfl
@[simp] theorem appendNode_treeValid (nd : Node) (s : State) :
    (appendNode nd s).treeValid = s.treeValid := rfl
@[simp] theorem appendNode_codesValid (nd : Node) (s : State) :
    (appendNode nd s).codesValid = s.codesValid := rfl
@[simp] theorem appendNode_freq (nd : Node) (s : State) :
    (appendNode nd s).freq = s.freq := rfl
@[simp] theorem appendNode_text (nd : Node) (s : State) :
    (appendNode nd s).text = s.text := rfl
@[simp] theorem appendNode_bits (nd : Node) (s : State) :
    (appendNode nd s).bits = s.bits := rfl
@[simp] theorem appendNode_out (nd : Node) (s : State) :
    (appendNode nd s).out = s.out := rfl
@[simp] theorem appendNode_node (nd : Node) (s : State) :
    (appendNode nd s).node = s.node.write s.work.next nd := rfl
@[simp] theorem appendNode_code (nd : Node) (s : State) :
    (appendNode nd s).code = s.code := rfl
@[simp] theorem appendNode_work (nd : Node) (s : State) :
    (appendNode nd s).work = { s.work with inq := s.work.inq ++ [s.work.next], qcnt := s.work.qcnt + 1, next := s.work.next + 1 } := rfl
@[simp] theorem appendNode_host (nd : Node) (s : State) :
    (appendNode nd s).host = s.host := rfl
@[simp] theorem appendNode_resp (nd : Node) (s : State) :
    (appendNode nd s).resp = s.resp := rfl
@[simp] theorem appendNode_draws (nd : Node) (s : State) :
    (appendNode nd s).draws = s.draws := rfl

/-! ### appendCode -/

@[simp] theorem appendCode_cfg (c : Code) (s : State) :
    (appendCode c s).cfg = s.cfg := rfl
@[simp] theorem appendCode_err (c : Code) (s : State) :
    (appendCode c s).err = s.err := rfl
@[simp] theorem appendCode_tlen (c : Code) (s : State) :
    (appendCode c s).tlen = s.tlen := rfl
@[simp] theorem appendCode_blen (c : Code) (s : State) :
    (appendCode c s).blen = s.blen := rfl
@[simp] theorem appendCode_olen (c : Code) (s : State) :
    (appendCode c s).olen = s.olen := rfl
@[simp] theorem appendCode_nleaf (c : Code) (s : State) :
    (appendCode c s).nleaf = s.nleaf := rfl
@[simp] theorem appendCode_nnode (c : Code) (s : State) :
    (appendCode c s).nnode = s.nnode := rfl
@[simp] theorem appendCode_root (c : Code) (s : State) :
    (appendCode c s).root = s.root := rfl
@[simp] theorem appendCode_cur (c : Code) (s : State) :
    (appendCode c s).cur = s.cur := rfl
@[simp] theorem appendCode_sel (c : Code) (s : State) :
    (appendCode c s).sel = s.sel := rfl
@[simp] theorem appendCode_idx (c : Code) (s : State) :
    (appendCode c s).idx = s.idx := rfl
@[simp] theorem appendCode_sub (c : Code) (s : State) :
    (appendCode c s).sub = s.sub := rfl
@[simp] theorem appendCode_treeValid (c : Code) (s : State) :
    (appendCode c s).treeValid = s.treeValid := rfl
@[simp] theorem appendCode_codesValid (c : Code) (s : State) :
    (appendCode c s).codesValid = s.codesValid := rfl
@[simp] theorem appendCode_freq (c : Code) (s : State) :
    (appendCode c s).freq = s.freq := rfl
@[simp] theorem appendCode_text (c : Code) (s : State) :
    (appendCode c s).text = s.text := rfl
@[simp] theorem appendCode_bits (c : Code) (s : State) :
    (appendCode c s).bits = s.bits.writeRun s.work.bpos c := rfl
@[simp] theorem appendCode_out (c : Code) (s : State) :
    (appendCode c s).out = s.out := rfl
@[simp] theorem appendCode_node (c : Code) (s : State) :
    (appendCode c s).node = s.node := rfl
@[simp] theorem appendCode_code (c : Code) (s : State) :
    (appendCode c s).code = s.code := rfl
@[simp] theorem appendCode_work (c : Code) (s : State) :
    (appendCode c s).work = { s.work with bpos := s.work.bpos + c.length, tpos := s.work.tpos + 1 } := rfl
@[simp] theorem appendCode_host (c : Code) (s : State) :
    (appendCode c s).host = s.host := rfl
@[simp] theorem appendCode_resp (c : Code) (s : State) :
    (appendCode c s).resp = s.resp := rfl
@[simp] theorem appendCode_draws (c : Code) (s : State) :
    (appendCode c s).draws = s.draws := rfl

/-! ### recordCode -/

@[simp] theorem recordCode_cfg (x : Nat) (s : State) :
    (recordCode x s).cfg = s.cfg := rfl
@[simp] theorem recordCode_err (x : Nat) (s : State) :
    (recordCode x s).err = s.err := rfl
@[simp] theorem recordCode_tlen (x : Nat) (s : State) :
    (recordCode x s).tlen = s.tlen := rfl
@[simp] theorem recordCode_blen (x : Nat) (s : State) :
    (recordCode x s).blen = s.blen := rfl
@[simp] theorem recordCode_olen (x : Nat) (s : State) :
    (recordCode x s).olen = s.olen := rfl
@[simp] theorem recordCode_nleaf (x : Nat) (s : State) :
    (recordCode x s).nleaf = s.nleaf := rfl
@[simp] theorem recordCode_nnode (x : Nat) (s : State) :
    (recordCode x s).nnode = s.nnode := rfl
@[simp] theorem recordCode_root (x : Nat) (s : State) :
    (recordCode x s).root = s.root := rfl
@[simp] theorem recordCode_cur (x : Nat) (s : State) :
    (recordCode x s).cur = s.cur := rfl
@[simp] theorem recordCode_sel (x : Nat) (s : State) :
    (recordCode x s).sel = s.sel := rfl
@[simp] theorem recordCode_idx (x : Nat) (s : State) :
    (recordCode x s).idx = s.idx := rfl
@[simp] theorem recordCode_sub (x : Nat) (s : State) :
    (recordCode x s).sub = s.sub := rfl
@[simp] theorem recordCode_treeValid (x : Nat) (s : State) :
    (recordCode x s).treeValid = s.treeValid := rfl
@[simp] theorem recordCode_codesValid (x : Nat) (s : State) :
    (recordCode x s).codesValid = s.codesValid := rfl
@[simp] theorem recordCode_freq (x : Nat) (s : State) :
    (recordCode x s).freq = s.freq := rfl
@[simp] theorem recordCode_text (x : Nat) (s : State) :
    (recordCode x s).text = s.text := rfl
@[simp] theorem recordCode_bits (x : Nat) (s : State) :
    (recordCode x s).bits = s.bits := rfl
@[simp] theorem recordCode_out (x : Nat) (s : State) :
    (recordCode x s).out = s.out := rfl
@[simp] theorem recordCode_node (x : Nat) (s : State) :
    (recordCode x s).node = s.node := rfl
@[simp] theorem recordCode_code (x : Nat) (s : State) :
    (recordCode x s).code = s.code.write x (s.work.path.take s.work.depth) := rfl
@[simp] theorem recordCode_work (x : Nat) (s : State) :
    (recordCode x s).work = s.work := rfl
@[simp] theorem recordCode_host (x : Nat) (s : State) :
    (recordCode x s).host = s.host := rfl
@[simp] theorem recordCode_resp (x : Nat) (s : State) :
    (recordCode x s).resp = s.resp := rfl
@[simp] theorem recordCode_draws (x : Nat) (s : State) :
    (recordCode x s).draws = s.draws := rfl

/-! ### descendLeft -/

@[simp] theorem descendLeft_cfg (r : Word) (s : State) :
    (descendLeft r s).cfg = s.cfg := rfl
@[simp] theorem descendLeft_err (r : Word) (s : State) :
    (descendLeft r s).err = s.err := rfl
@[simp] theorem descendLeft_tlen (r : Word) (s : State) :
    (descendLeft r s).tlen = s.tlen := rfl
@[simp] theorem descendLeft_blen (r : Word) (s : State) :
    (descendLeft r s).blen = s.blen := rfl
@[simp] theorem descendLeft_olen (r : Word) (s : State) :
    (descendLeft r s).olen = s.olen := rfl
@[simp] theorem descendLeft_nleaf (r : Word) (s : State) :
    (descendLeft r s).nleaf = s.nleaf := rfl
@[simp] theorem descendLeft_nnode (r : Word) (s : State) :
    (descendLeft r s).nnode = s.nnode := rfl
@[simp] theorem descendLeft_root (r : Word) (s : State) :
    (descendLeft r s).root = s.root := rfl
@[simp] theorem descendLeft_cur (r : Word) (s : State) :
    (descendLeft r s).cur = s.cur := rfl
@[simp] theorem descendLeft_sel (r : Word) (s : State) :
    (descendLeft r s).sel = s.sel := rfl
@[simp] theorem descendLeft_idx (r : Word) (s : State) :
    (descendLeft r s).idx = s.idx := rfl
@[simp] theorem descendLeft_sub (r : Word) (s : State) :
    (descendLeft r s).sub = s.sub := rfl
@[simp] theorem descendLeft_treeValid (r : Word) (s : State) :
    (descendLeft r s).treeValid = s.treeValid := rfl
@[simp] theorem descendLeft_codesValid (r : Word) (s : State) :
    (descendLeft r s).codesValid = s.codesValid := rfl
@[simp] theorem descendLeft_freq (r : Word) (s : State) :
    (descendLeft r s).freq = s.freq := rfl
@[simp] theorem descendLeft_text (r : Word) (s : State) :
    (descendLeft r s).text = s.text := rfl
@[simp] theorem descendLeft_bits (r : Word) (s : State) :
    (descendLeft r s).bits = s.bits := rfl
@[simp] theorem descendLeft_out (r : Word) (s : State) :
    (descendLeft r s).out = s.out := rfl
@[simp] theorem descendLeft_node (r : Word) (s : State) :
    (descendLeft r s).node = s.node := rfl
@[simp] theorem descendLeft_code (r : Word) (s : State) :
    (descendLeft r s).code = s.code := rfl
@[simp] theorem descendLeft_work (r : Word) (s : State) :
    (descendLeft r s).work = { s.work with path := s.work.path ++ [false], depth := s.work.depth + 1, stk := r :: s.work.stk } := rfl
@[simp] theorem descendLeft_host (r : Word) (s : State) :
    (descendLeft r s).host = s.host := rfl
@[simp] theorem descendLeft_resp (r : Word) (s : State) :
    (descendLeft r s).resp = s.resp := rfl
@[simp] theorem descendLeft_draws (r : Word) (s : State) :
    (descendLeft r s).draws = s.draws := rfl

/-! ### turnRight -/

@[simp] theorem turnRight_cfg (s : State) :
    (turnRight s).cfg = s.cfg := rfl
@[simp] theorem turnRight_err (s : State) :
    (turnRight s).err = s.err := rfl
@[simp] theorem turnRight_tlen (s : State) :
    (turnRight s).tlen = s.tlen := rfl
@[simp] theorem turnRight_blen (s : State) :
    (turnRight s).blen = s.blen := rfl
@[simp] theorem turnRight_olen (s : State) :
    (turnRight s).olen = s.olen := rfl
@[simp] theorem turnRight_nleaf (s : State) :
    (turnRight s).nleaf = s.nleaf := rfl
@[simp] theorem turnRight_nnode (s : State) :
    (turnRight s).nnode = s.nnode := rfl
@[simp] theorem turnRight_root (s : State) :
    (turnRight s).root = s.root := rfl
@[simp] theorem turnRight_cur (s : State) :
    (turnRight s).cur = s.cur := rfl
@[simp] theorem turnRight_sel (s : State) :
    (turnRight s).sel = s.sel := rfl
@[simp] theorem turnRight_idx (s : State) :
    (turnRight s).idx = s.idx := rfl
@[simp] theorem turnRight_sub (s : State) :
    (turnRight s).sub = s.sub := rfl
@[simp] theorem turnRight_treeValid (s : State) :
    (turnRight s).treeValid = s.treeValid := rfl
@[simp] theorem turnRight_codesValid (s : State) :
    (turnRight s).codesValid = s.codesValid := rfl
@[simp] theorem turnRight_freq (s : State) :
    (turnRight s).freq = s.freq := rfl
@[simp] theorem turnRight_text (s : State) :
    (turnRight s).text = s.text := rfl
@[simp] theorem turnRight_bits (s : State) :
    (turnRight s).bits = s.bits := rfl
@[simp] theorem turnRight_out (s : State) :
    (turnRight s).out = s.out := rfl
@[simp] theorem turnRight_node (s : State) :
    (turnRight s).node = s.node := rfl
@[simp] theorem turnRight_code (s : State) :
    (turnRight s).code = s.code := rfl
@[simp] theorem turnRight_work (s : State) :
    (turnRight s).work = { s.work with path := s.work.path.dropLast ++ [true], stk := s.work.stk.tail } := rfl
@[simp] theorem turnRight_host (s : State) :
    (turnRight s).host = s.host := rfl
@[simp] theorem turnRight_resp (s : State) :
    (turnRight s).resp = s.resp := rfl
@[simp] theorem turnRight_draws (s : State) :
    (turnRight s).draws = s.draws := rfl

/-! ### ascend -/

@[simp] theorem ascend_cfg (s : State) :
    (ascend s).cfg = s.cfg := rfl
@[simp] theorem ascend_err (s : State) :
    (ascend s).err = s.err := rfl
@[simp] theorem ascend_tlen (s : State) :
    (ascend s).tlen = s.tlen := rfl
@[simp] theorem ascend_blen (s : State) :
    (ascend s).blen = s.blen := rfl
@[simp] theorem ascend_olen (s : State) :
    (ascend s).olen = s.olen := rfl
@[simp] theorem ascend_nleaf (s : State) :
    (ascend s).nleaf = s.nleaf := rfl
@[simp] theorem ascend_nnode (s : State) :
    (ascend s).nnode = s.nnode := rfl
@[simp] theorem ascend_root (s : State) :
    (ascend s).root = s.root := rfl
@[simp] theorem ascend_cur (s : State) :
    (ascend s).cur = s.cur := rfl
@[simp] theorem ascend_sel (s : State) :
    (ascend s).sel = s.sel := rfl
@[simp] theorem ascend_idx (s : State) :
    (ascend s).idx = s.idx := rfl
@[simp] theorem ascend_sub (s : State) :
    (ascend s).sub = s.sub := rfl
@[simp] theorem ascend_treeValid (s : State) :
    (ascend s).treeValid = s.treeValid := rfl
@[simp] theorem ascend_codesValid (s : State) :
    (ascend s).codesValid = s.codesValid := rfl
@[simp] theorem ascend_freq (s : State) :
    (ascend s).freq = s.freq := rfl
@[simp] theorem ascend_text (s : State) :
    (ascend s).text = s.text := rfl
@[simp] theorem ascend_bits (s : State) :
    (ascend s).bits = s.bits := rfl
@[simp] theorem ascend_out (s : State) :
    (ascend s).out = s.out := rfl
@[simp] theorem ascend_node (s : State) :
    (ascend s).node = s.node := rfl
@[simp] theorem ascend_code (s : State) :
    (ascend s).code = s.code := rfl
@[simp] theorem ascend_work (s : State) :
    (ascend s).work = { s.work with path := s.work.path.dropLast, depth := s.work.depth - 1 } := rfl
@[simp] theorem ascend_host (s : State) :
    (ascend s).host = s.host := rfl
@[simp] theorem ascend_resp (s : State) :
    (ascend s).resp = s.resp := rfl
@[simp] theorem ascend_draws (s : State) :
    (ascend s).draws = s.draws := rfl

@[simp] theorem resetInput_eq (s : State) : resetInput s = State.resetOf s.cfg s.host s.draws := rfl

end Sys2Proof.Machine
end

