-- ==== Sys2Proof/Laws/Operands.lean ====
section
/-! SUPPORT. What a read of an element does: it returns what was last written or a free value, and it changes nothing
but the counter of draws. -/

namespace Sys2Proof.Machine

/-- A listed element is read as it stands, and nothing changes. -/
theorem readElem_of_read {α : Type} {m : Memory α} {free : Word → α} {k : Nat} {s : State} {v : α}
    (h : m.read k = some v) : readElem m free k s = (v, s) := by
  simp [readElem, h]

/-- An unlisted element reads as the next free value. -/
theorem readElem_of_none {α : Type} {m : Memory α} {free : Word → α} {k : Nat} {s : State}
    (h : m.read k = none) : readElem m free k s = (free (Config.freeWord s.draws), (drawWord s).2) := by
  simp [readElem, h, drawWord]

/-- Everything a read can do to the state: nothing, but for the counter of draws. -/
theorem readElem_state {α : Type} (m : Memory α) (free : Word → α) (k : Nat) (s : State) :
    (readElem m free k s).2 = { s with draws := (readElem m free k s).2.draws } := by
  unfold readElem; split <;> rfl

/-- What a read returns: the listed value, or some free value. -/
theorem readElem_value {α : Type} (m : Memory α) (free : Word → α) (k : Nat) (s : State) :
    m.read k = some (readElem m free k s).1 ∨ ∃ d, (readElem m free k s).1 = free d := by
  unfold readElem; split
  · next h => exact .inl h
  · exact .inr ⟨_, rfl⟩

/-- A listed node is read as it stands, and nothing changes. -/
theorem readNode_of_read {k : Nat} {s : State} {nd : Node} (h : s.node.read k = some nd) :
    readNode k s = (nd, s) := by
  simp [readNode, h]

/-- Everything a read of a node can do to the state. -/
theorem readNode_state (k : Nat) (s : State) :
    (readNode k s).2 = { s with draws := (readNode k s).2.draws } := by
  unfold readNode; split <;> rfl

/-- What a read of a node returns: the listed record, or a record of free values. -/
theorem readNode_value (k : Nat) (s : State) :
    s.node.read k = some (readNode k s).1 ∨ (readNode k s).1 = freeNode s.cfg s.draws := by
  unfold readNode; split
  · next h => exact .inl h
  · exact .inr rfl

/-! ### readElem -/

@[simp] theorem readElem_cfg {α : Type} (m : Memory α) (g : Word → α) (k : Nat) (s : State) :
    (readElem m g k s).2.cfg = s.cfg := by
  rw [readElem_state]
@[simp] theorem readElem_err {α : Type} (m : Memory α) (g : Word → α) (k : Nat) (s : State) :
    (readElem m g k s).2.err = s.err := by
  rw [readElem_state]
@[simp] theorem readElem_tlen {α : Type} (m : Memory α) (g : Word → α) (k : Nat) (s : State) :
    (readElem m g k s).2.tlen = s.tlen := by
  rw [readElem_state]
@[simp] theorem readElem_blen {α : Type} (m : Memory α) (g : Word → α) (k : Nat) (s : State) :
    (readElem m g k s).2.blen = s.blen := by
  rw [readElem_state]
@[simp] theorem readElem_olen {α : Type} (m : Memory α) (g : Word → α) (k : Nat) (s : State) :
    (readElem m g k s).2.olen = s.olen := by
  rw [readElem_state]
@[simp] theorem readElem_nleaf {α : Type} (m : Memory α) (g : Word → α) (k : Nat) (s : State) :
    (readElem m g k s).2.nleaf = s.nleaf := by
  rw [readElem_state]
@[simp] theorem readElem_nnode {α : Type} (m : Memory α) (g : Word → α) (k : Nat) (s : State) :
    (readElem m g k s).2.nnode = s.nnode := by
  rw [readElem_state]
@[simp] theorem readElem_root {α : Type} (m : Memory α) (g : Word → α) (k : Nat) (s : State) :
    (readElem m g k s).2.root = s.root := by
  rw [readElem_state]
@[simp] theorem readElem_cur {α : Type} (m : Memory α) (g : Word → α) (k : Nat) (s : State) :
    (readElem m g k s).2.cur = s.cur := by
  rw [readElem_state]
@[simp] theorem readElem_sel {α : Type} (m : Memory α) (g : Word → α) (k : Nat) (s : State) :
    (readElem m g k s).2.sel = s.sel := by
  rw [readElem_state]
@[simp] theorem readElem_idx {α : Type} (m : Memory α) (g : Word → α) (k : Nat) (s : State) :
    (readElem m g k s).2.idx = s.idx := by
  rw [readElem_state]
@[simp] theorem readElem_sub {α : Type} (m : Memory α) (g : Word → α) (k : Nat) (s : State) :
    (readElem m g k s).2.sub = s.sub := by
  rw [readElem_state]
@[simp] theorem readElem_treeValid {α : Type} (m : Memory α) (g : Word → α) (k : Nat) (s : State) :
    (readElem m g k s).2.treeValid = s.treeValid := by
  rw [readElem_state]
@[simp] theorem readElem_codesValid {α : Type} (m : Memory α) (g : Word → α) (k : Nat) (s : State) :
    (readElem m g k s).2.codesValid = s.codesValid := by
  rw [readElem_state]
@[simp] theorem readElem_freq {α : Type} (m : Memory α) (g : Word → α) (k : Nat) (s : State) :
    (readElem m g k s).2.freq = s.freq := by
  rw [readElem_state]
@[simp] theorem readElem_text {α : Type} (m : Memory α) (g : Word → α) (k : Nat) (s : State) :
    (readElem m g k s).2.text = s.text := by
  rw [readElem_state]
@[simp] theorem readElem_bits {α : Type} (m : Memory α) (g : Word → α) (k : Nat) (s : State) :
    (readElem m g k s).2.bits = s.bits := by
  rw [readElem_state]
@[simp] theorem readElem_out {α : Type} (m : Memory α) (g : Word → α) (k : Nat) (s : State) :
    (readElem m g k s).2.out = s.out := by
  rw [readElem_state]
@[simp] theorem readElem_node {α : Type} (m : Memory α) (g : Word → α) (k : Nat) (s : State) :
    (readElem m g k s).2.node = s.node := by
  rw [readElem_state]
@[simp] theorem readElem_code {α : Type} (m : Memory α) (g : Word → α) (k : Nat) (s : State) :
    (readElem m g k s).2.code = s.code := by
  rw [readElem_state]
@[simp] theorem readElem_work {α : Type} (m : Memory α) (g : Word → α) (k : Nat) (s : State) :
    (readElem m g k s).2.work = s.work := by
  rw [readElem_state]
@[simp] theorem readElem_host {α : Type} (m : Memory α) (g : Word → α) (k : Nat) (s : State) :
    (readElem m g k s).2.host = s.host := by
  rw [readElem_state]
@[simp] theorem readElem_resp {α : Type} (m : Memory α) (g : Word → α) (k : Nat) (s : State) :
    (readElem m g k s).2.resp = s.resp := by
  rw [readElem_state]

/-! ### readFreq -/

@[simp] theorem readFreq_cfg (k : Nat) (s : State) :
    (readFreq k s).2.cfg = s.cfg := readElem_cfg _ _ _ _
@[simp] theorem readFreq_err (k : Nat) (s : State) :
    (readFreq k s).2.err = s.err := readElem_err _ _ _ _
@[simp] theorem readFreq_tlen (k : Nat) (s : State) :
    (readFreq k s).2.tlen = s.tlen := readElem_tlen _ _ _ _
@[simp] theorem readFreq_blen (k : Nat) (s : State) :
    (readFreq k s).2.blen = s.blen := readElem_blen _ _ _ _
@[simp] theorem readFreq_olen (k : Nat) (s : State) :
    (readFreq k s).2.olen = s.olen := readElem_olen _ _ _ _
@[simp] theorem readFreq_nleaf (k : Nat) (s : State) :
    (readFreq k s).2.nleaf = s.nleaf := readElem_nleaf _ _ _ _
@[simp] theorem readFreq_nnode (k : Nat) (s : State) :
    (readFreq k s).2.nnode = s.nnode := readElem_nnode _ _ _ _
@[simp] theorem readFreq_root (k : Nat) (s : State) :
    (readFreq k s).2.root = s.root := readElem_root _ _ _ _
@[simp] theorem readFreq_cur (k : Nat) (s : State) :
    (readFreq k s).2.cur = s.cur := readElem_cur _ _ _ _
@[simp] theorem readFreq_sel (k : Nat) (s : State) :
    (readFreq k s).2.sel = s.sel := readElem_sel _ _ _ _
@[simp] theorem readFreq_idx (k : Nat) (s : State) :
    (readFreq k s).2.idx = s.idx := readElem_idx _ _ _ _
@[simp] theorem readFreq_sub (k : Nat) (s : State) :
    (readFreq k s).2.sub = s.sub := readElem_sub _ _ _ _
@[simp] theorem readFreq_treeValid (k : Nat) (s : State) :
    (readFreq k s).2.treeValid = s.treeValid := readElem_treeValid _ _ _ _
@[simp] theorem readFreq_codesValid (k : Nat) (s : State) :
    (readFreq k s).2.codesValid = s.codesValid := readElem_codesValid _ _ _ _
@[simp] theorem readFreq_freq (k : Nat) (s : State) :
    (readFreq k s).2.freq = s.freq := readElem_freq _ _ _ _
@[simp] theorem readFreq_text (k : Nat) (s : State) :
    (readFreq k s).2.text = s.text := readElem_text _ _ _ _
@[simp] theorem readFreq_bits (k : Nat) (s : State) :
    (readFreq k s).2.bits = s.bits := readElem_bits _ _ _ _
@[simp] theorem readFreq_out (k : Nat) (s : State) :
    (readFreq k s).2.out = s.out := readElem_out _ _ _ _
@[simp] theorem readFreq_node (k : Nat) (s : State) :
    (readFreq k s).2.node = s.node := readElem_node _ _ _ _
@[simp] theorem readFreq_code (k : Nat) (s : State) :
    (readFreq k s).2.code = s.code := readElem_code _ _ _ _
@[simp] theorem readFreq_work (k : Nat) (s : State) :
    (readFreq k s).2.work = s.work := readElem_work _ _ _ _
@[simp] theorem readFreq_host (k : Nat) (s : State) :
    (readFreq k s).2.host = s.host := readElem_host _ _ _ _
@[simp] theorem readFreq_resp (k : Nat) (s : State) :
    (readFreq k s).2.resp = s.resp := readElem_resp _ _ _ _

/-! ### readText -/

@[simp] theorem readText_cfg (k : Nat) (s : State) :
    (readText k s).2.cfg = s.cfg := readElem_cfg _ _ _ _
@[simp] theorem readText_err (k : Nat) (s : State) :
    (readText k s).2.err = s.err := readElem_err _ _ _ _
@[simp] theorem readText_tlen (k : Nat) (s : State) :
    (readText k s).2.tlen = s.tlen := readElem_tlen _ _ _ _
@[simp] theorem readText_blen (k : Nat) (s : State) :
    (readText k s).2.blen = s.blen := readElem_blen _ _ _ _
@[simp] theorem readText_olen (k : Nat) (s : State) :
    (readText k s).2.olen = s.olen := readElem_olen _ _ _ _
@[simp] theorem readText_nleaf (k : Nat) (s : State) :
    (readText k s).2.nleaf = s.nleaf := readElem_nleaf _ _ _ _
@[simp] theorem readText_nnode (k : Nat) (s : State) :
    (readText k s).2.nnode = s.nnode := readElem_nnode _ _ _ _
@[simp] theorem readText_root (k : Nat) (s : State) :
    (readText k s).2.root = s.root := readElem_root _ _ _ _
@[simp] theorem readText_cur (k : Nat) (s : State) :
    (readText k s).2.cur = s.cur := readElem_cur _ _ _ _
@[simp] theorem readText_sel (k : Nat) (s : State) :
    (readText k s).2.sel = s.sel := readElem_sel _ _ _ _
@[simp] theorem readText_idx (k : Nat) (s : State) :
    (readText k s).2.idx = s.idx := readElem_idx _ _ _ _
@[simp] theorem readText_sub (k : Nat) (s : State) :
    (readText k s).2.sub = s.sub := readElem_sub _ _ _ _
@[simp] theorem readText_treeValid (k : Nat) (s : State) :
    (readText k s).2.treeValid = s.treeValid := readElem_treeValid _ _ _ _
@[simp] theorem readText_codesValid (k : Nat) (s : State) :
    (readText k s).2.codesValid = s.codesValid := readElem_codesValid _ _ _ _
@[simp] theorem readText_freq (k : Nat) (s : State) :
    (readText k s).2.freq = s.freq := readElem_freq _ _ _ _
@[simp] theorem readText_text (k : Nat) (s : State) :
    (readText k s).2.text = s.text := readElem_text _ _ _ _
@[simp] theorem readText_bits (k : Nat) (s : State) :
    (readText k s).2.bits = s.bits := readElem_bits _ _ _ _
@[simp] theorem readText_out (k : Nat) (s : State) :
    (readText k s).2.out = s.out := readElem_out _ _ _ _
@[simp] theorem readText_node (k : Nat) (s : State) :
    (readText k s).2.node = s.node := readElem_node _ _ _ _
@[simp] theorem readText_code (k : Nat) (s : State) :
    (readText k s).2.code = s.code := readElem_code _ _ _ _
@[simp] theorem readText_work (k : Nat) (s : State) :
    (readText k s).2.work = s.work := readElem_work _ _ _ _
@[simp] theorem readText_host (k : Nat) (s : State) :
    (readText k s).2.host = s.host := readElem_host _ _ _ _
@[simp] theorem readText_resp (k : Nat) (s : State) :
    (readText k s).2.resp = s.resp := readElem_resp _ _ _ _

/-! ### readBits -/

@[simp] theorem readBits_cfg (k : Nat) (s : State) :
    (readBits k s).2.cfg = s.cfg := readElem_cfg _ _ _ _
@[simp] theorem readBits_err (k : Nat) (s : State) :
    (readBits k s).2.err = s.err := readElem_err _ _ _ _
@[simp] theorem readBits_tlen (k : Nat) (s : State) :
    (readBits k s).2.tlen = s.tlen := readElem_tlen _ _ _ _
@[simp] theorem readBits_blen (k : Nat) (s : State) :
    (readBits k s).2.blen = s.blen := readElem_blen _ _ _ _
@[simp] theorem readBits_olen (k : Nat) (s : State) :
    (readBits k s).2.olen = s.olen := readElem_olen _ _ _ _
@[simp] theorem readBits_nleaf (k : Nat) (s : State) :
    (readBits k s).2.nleaf = s.nleaf := readElem_nleaf _ _ _ _
@[simp] theorem readBits_nnode (k : Nat) (s : State) :
    (readBits k s).2.nnode = s.nnode := readElem_nnode _ _ _ _
@[simp] theorem readBits_root (k : Nat) (s : State) :
    (readBits k s).2.root = s.root := readElem_root _ _ _ _
@[simp] theorem readBits_cur (k : Nat) (s : State) :
    (readBits k s).2.cur = s.cur := readElem_cur _ _ _ _
@[simp] theorem readBits_sel (k : Nat) (s : State) :
    (readBits k s).2.sel = s.sel := readElem_sel _ _ _ _
@[simp] theorem readBits_idx (k : Nat) (s : State) :
    (readBits k s).2.idx = s.idx := readElem_idx _ _ _ _
@[simp] theorem readBits_sub (k : Nat) (s : State) :
    (readBits k s).2.sub = s.sub := readElem_sub _ _ _ _
@[simp] theorem readBits_treeValid (k : Nat) (s : State) :
    (readBits k s).2.treeValid = s.treeValid := readElem_treeValid _ _ _ _
@[simp] theorem readBits_codesValid (k : Nat) (s : State) :
    (readBits k s).2.codesValid = s.codesValid := readElem_codesValid _ _ _ _
@[simp] theorem readBits_freq (k : Nat) (s : State) :
    (readBits k s).2.freq = s.freq := readElem_freq _ _ _ _
@[simp] theorem readBits_text (k : Nat) (s : State) :
    (readBits k s).2.text = s.text := readElem_text _ _ _ _
@[simp] theorem readBits_bits (k : Nat) (s : State) :
    (readBits k s).2.bits = s.bits := readElem_bits _ _ _ _
@[simp] theorem readBits_out (k : Nat) (s : State) :
    (readBits k s).2.out = s.out := readElem_out _ _ _ _
@[simp] theorem readBits_node (k : Nat) (s : State) :
    (readBits k s).2.node = s.node := readElem_node _ _ _ _
@[simp] theorem readBits_code (k : Nat) (s : State) :
    (readBits k s).2.code = s.code := readElem_code _ _ _ _
@[simp] theorem readBits_work (k : Nat) (s : State) :
    (readBits k s).2.work = s.work := readElem_work _ _ _ _
@[simp] theorem readBits_host (k : Nat) (s : State) :
    (readBits k s).2.host = s.host := readElem_host _ _ _ _
@[simp] theorem readBits_resp (k : Nat) (s : State) :
    (readBits k s).2.resp = s.resp := readElem_resp _ _ _ _

/-! ### readOut -/

@[simp] theorem readOut_cfg (k : Nat) (s : State) :
    (readOut k s).2.cfg = s.cfg := readElem_cfg _ _ _ _
@[simp] theorem readOut_err (k : Nat) (s : State) :
    (readOut k s).2.err = s.err := readElem_err _ _ _ _
@[simp] theorem readOut_tlen (k : Nat) (s : State) :
    (readOut k s).2.tlen = s.tlen := readElem_tlen _ _ _ _
@[simp] theorem readOut_blen (k : Nat) (s : State) :
    (readOut k s).2.blen = s.blen := readElem_blen _ _ _ _
@[simp] theorem readOut_olen (k : Nat) (s : State) :
    (readOut k s).2.olen = s.olen := readElem_olen _ _ _ _
@[simp] theorem readOut_nleaf (k : Nat) (s : State) :
    (readOut k s).2.nleaf = s.nleaf := readElem_nleaf _ _ _ _
@[simp] theorem readOut_nnode (k : Nat) (s : State) :
    (readOut k s).2.nnode = s.nnode := readElem_nnode _ _ _ _
@[simp] theorem readOut_root (k : Nat) (s : State) :
    (readOut k s).2.root = s.root := readElem_root _ _ _ _
@[simp] theorem readOut_cur (k : Nat) (s : State) :
    (readOut k s).2.cur = s.cur := readElem_cur _ _ _ _
@[simp] theorem readOut_sel (k : Nat) (s : State) :
    (readOut k s).2.sel = s.sel := readElem_sel _ _ _ _
@[simp] theorem readOut_idx (k : Nat) (s : State) :
    (readOut k s).2.idx = s.idx := readElem_idx _ _ _ _
@[simp] theorem readOut_sub (k : Nat) (s : State) :
    (readOut k s).2.sub = s.sub := readElem_sub _ _ _ _
@[simp] theorem readOut_treeValid (k : Nat) (s : State) :
    (readOut k s).2.treeValid = s.treeValid := readElem_treeValid _ _ _ _
@[simp] theorem readOut_codesValid (k : Nat) (s : State) :
    (readOut k s).2.codesValid = s.codesValid := readElem_codesValid _ _ _ _
@[simp] theorem readOut_freq (k : Nat) (s : State) :
    (readOut k s).2.freq = s.freq := readElem_freq _ _ _ _
@[simp] theorem readOut_text (k : Nat) (s : State) :
    (readOut k s).2.text = s.text := readElem_text _ _ _ _
@[simp] theorem readOut_bits (k : Nat) (s : State) :
    (readOut k s).2.bits = s.bits := readElem_bits _ _ _ _
@[simp] theorem readOut_out (k : Nat) (s : State) :
    (readOut k s).2.out = s.out := readElem_out _ _ _ _
@[simp] theorem readOut_node (k : Nat) (s : State) :
    (readOut k s).2.node = s.node := readElem_node _ _ _ _
@[simp] theorem readOut_code (k : Nat) (s : State) :
    (readOut k s).2.code = s.code := readElem_code _ _ _ _
@[simp] theorem readOut_work (k : Nat) (s : State) :
    (readOut k s).2.work = s.work := readElem_work _ _ _ _
@[simp] theorem readOut_host (k : Nat) (s : State) :
    (readOut k s).2.host = s.host := readElem_host _ _ _ _
@[simp] theorem readOut_resp (k : Nat) (s : State) :
    (readOut k s).2.resp = s.resp := readElem_resp _ _ _ _

/-! ### readNode -/

@[simp] theorem readNode_cfg (k : Nat) (s : State) :
    (readNode k s).2.cfg = s.cfg := by
  rw [readNode_state]
@[simp] theorem readNode_err (k : Nat) (s : State) :
    (readNode k s).2.err = s.err := by
  rw [readNode_state]
@[simp] theorem readNode_tlen (k : Nat) (s : State) :
    (readNode k s).2.tlen = s.tlen := by
  rw [readNode_state]
@[simp] theorem readNode_blen (k : Nat) (s : State) :
    (readNode k s).2.blen = s.blen := by
  rw [readNode_state]
@[simp] theorem readNode_olen (k : Nat) (s : State) :
    (readNode k s).2.olen = s.olen := by
  rw [readNode_state]
@[simp] theorem readNode_nleaf (k : Nat) (s : State) :
    (readNode k s).2.nleaf = s.nleaf := by
  rw [readNode_state]
@[simp] theorem readNode_nnode (k : Nat) (s : State) :
    (readNode k s).2.nnode = s.nnode := by
  rw [readNode_state]
@[simp] theorem readNode_root (k : Nat) (s : State) :
    (readNode k s).2.root = s.root := by
  rw [readNode_state]
@[simp] theorem readNode_cur (k : Nat) (s : State) :
    (readNode k s).2.cur = s.cur := by
  rw [readNode_state]
@[simp] theorem readNode_sel (k : Nat) (s : State) :
    (readNode k s).2.sel = s.sel := by
  rw [readNode_state]
@[simp] theorem readNode_idx (k : Nat) (s : State) :
    (readNode k s).2.idx = s.idx := by
  rw [readNode_state]
@[simp] theorem readNode_sub (k : Nat) (s : State) :
    (readNode k s).2.sub = s.sub := by
  rw [readNode_state]
@[simp] theorem readNode_treeValid (k : Nat) (s : State) :
    (readNode k s).2.treeValid = s.treeValid := by
  rw [readNode_state]
@[simp] theorem readNode_codesValid (k : Nat) (s : State) :
    (readNode k s).2.codesValid = s.codesValid := by
  rw [readNode_state]
@[simp] theorem readNode_freq (k : Nat) (s : State) :
    (readNode k s).2.freq = s.freq := by
  rw [readNode_state]
@[simp] theorem readNode_text (k : Nat) (s : State) :
    (readNode k s).2.text = s.text := by
  rw [readNode_state]
@[simp] theorem readNode_bits (k : Nat) (s : State) :
    (readNode k s).2.bits = s.bits := by
  rw [readNode_state]
@[simp] theorem readNode_out (k : Nat) (s : State) :
    (readNode k s).2.out = s.out := by
  rw [readNode_state]
@[simp] theorem readNode_node (k : Nat) (s : State) :
    (readNode k s).2.node = s.node := by
  rw [readNode_state]
@[simp] theorem readNode_code (k : Nat) (s : State) :
    (readNode k s).2.code = s.code := by
  rw [readNode_state]
@[simp] theorem readNode_work (k : Nat) (s : State) :
    (readNode k s).2.work = s.work := by
  rw [readNode_state]
@[simp] theorem readNode_host (k : Nat) (s : State) :
    (readNode k s).2.host = s.host := by
  rw [readNode_state]
@[simp] theorem readNode_resp (k : Nat) (s : State) :
    (readNode k s).2.resp = s.resp := by
  rw [readNode_state]

end Sys2Proof.Machine
end

