-- ==== Sys2Proof/Laws/Ops.lean ====
section
/-! SUPPORT. The shared operations that are no updates: bounded loops, the acceptance test, the register map. -/

namespace Sys2Proof.Machine

/-! ### Bounded loops -/

/-- The induction of a loop, once: what holds at the start and is kept by every turn that goes on holds at the
end, and what such a turn gives when it raises is what the loop raises with. -/
theorem Pass.loop_induct {turn : State → Pass} {P Q : State → Prop}
    (keep : ∀ s t, P s → turn s = .running t → P t) (stop : ∀ s t, P s → turn s = .raised t → Q t)
    (n : Nat) (s : State) (h : P s) :
    (∀ t, Pass.loop turn n s = .running t → P t) ∧ (∀ t, Pass.loop turn n s = .raised t → Q t) := by
  induction n generalizing s with
  | zero =>
    refine ⟨fun t ht => ?_, fun t ht => ?_⟩
    · simp only [Pass.loop, Pass.running.injEq] at ht; exact ht ▸ h
    · simp [Pass.loop] at ht
  | succ n ih =>
    cases hs : turn s with
    | running u => simpa only [Pass.loop, hs] using ih u (keep s u h hs)
    | raised u =>
      refine ⟨fun t ht => ?_, fun t ht => ?_⟩
      · simp [Pass.loop, hs] at ht
      · simp only [Pass.loop, hs, Pass.raised.injEq] at ht; exact ht ▸ stop s u h hs

/-- The same with the number of turns done: after `n` turns that all go on, what is kept has been kept `n`
times. -/
theorem Pass.loop_count {turn : State → Pass} {P : Nat → State → Prop} {Q : State → Prop}
    (keep : ∀ k s t, P k s → turn s = .running t → P (k + 1) t)
    (stop : ∀ k s t, P k s → turn s = .raised t → Q t)
    (n k : Nat) (s : State) (h : P k s) :
    (∀ t, Pass.loop turn n s = .running t → P (k + n) t) ∧
    (∀ t, Pass.loop turn n s = .raised t → Q t) := by
  induction n generalizing s k with
  | zero =>
    refine ⟨fun t ht => ?_, fun t ht => ?_⟩
    · simp only [Pass.loop, Pass.running.injEq] at ht; exact ht ▸ h
    · simp [Pass.loop] at ht
  | succ n ih =>
    cases hs : turn s with
    | running u =>
      have := ih (k + 1) u (keep k s u h hs)
      rw [show k + 1 + n = k + (n + 1) by omega] at this
      simpa only [Pass.loop, hs] using this
    | raised u =>
      refine ⟨fun t ht => ?_, fun t ht => ?_⟩
      · simp [Pass.loop, hs] at ht
      · simp only [Pass.loop, hs, Pass.raised.injEq] at ht; exact ht ▸ stop k s u h hs

/-- A loop of which some turns go on, followed by the rest. -/
theorem Pass.loop_add (turn : State → Pass) (m n : Nat) (s t : State)
    (h : Pass.loop turn m s = .running t) : Pass.loop turn (m + n) s = Pass.loop turn n t := by
  induction m generalizing s with
  | zero => simp only [Pass.loop, Pass.running.injEq] at h; simp [h]
  | succ m ih =>
    rw [show m + 1 + n = m + n + 1 by omega]
    cases hs : turn s with
    | running u => simp only [Pass.loop, hs] at h ⊢; exact ih u h
    | raised u => simp [Pass.loop, hs] at h

/-- A kept property of an iterated turn. -/
theorem iterate_induct {turn : State → State} {P : Nat → State → Prop}
    (keep : ∀ k s, P k s → P (k + 1) (turn s)) (n k : Nat) (s : State) (h : P k s) :
    P (k + n) (turn^[n] s) := by
  induction n generalizing s k with
  | zero => exact h
  | succ n ih =>
    rw [Function.iterate_succ_apply, show k + (n + 1) = k + 1 + n by omega]
    exact ih (k + 1) (turn s) (keep k s h)

/-! ### The acceptance test -/

/-- With an error latched a command is refused (R211). -/
theorem accepted_latched {s : State} (h : s.latched) (run : State → Result) :
    accepted s run = .next (refuseWrite s) := if_pos h

/-- With no error latched a command is run. -/
theorem accepted_clear {s : State} (h : s.err.code = 0#4) (run : State → Result) :
    accepted s run = run s := if_neg (not_not.2 h)

/-- Everything the acceptance test can do. -/
theorem accepted_next {s t : State} {run : State → Result} (h : accepted s run = .next t) :
    (s.latched ∧ t = refuseWrite s) ∨ (s.err.code = 0#4 ∧ run s = .next t) := by
  by_cases hl : s.latched
  · rw [accepted_latched hl] at h; cases h; exact .inl ⟨hl, rfl⟩
  · have h0 : s.err.code = 0#4 := not_not.1 hl
    rw [accepted_clear h0] at h; exact .inr ⟨h0, h⟩

/-- Everything the end of a command can do. -/
theorem finish_next {s t : State} (h : finish s = .next t) : t = answerWrite s := by
  simp only [finish, Host.Outcome.next.injEq] at h; exact h.symm

/-- What an illegal word does when no error is latched (R208). -/
theorem illegalCommand_clear {s : State} (h : s.err.code = 0#4) (v : Word) :
    illegalCommand v s = .next (answerWrite (raise (v.extractLsb' 0 8) .illegalCommand 0#4 v 0 s)) := by
  simp [illegalCommand, accepted_clear h, finish]

/-! ### The register map -/

/-- Each register is reached at its offset (R21). -/
theorem Reg.at_offset (r : Reg) : Reg.at r.offset 32 = some r := by cases r <;> rfl

/-- An access reaches a register only at that register's offset, and only 32 bits wide (R61, R72). -/
theorem Reg.at_eq_some {off width : Nat} {r : Reg} : Reg.at off width = some r ↔ off = r.offset ∧ width = 32 := by
  constructor
  · intro h
    unfold Reg.at at h
    split at h
    · next hc =>
      obtain ⟨h4, hw, hlt⟩ := hc
      refine ⟨?_, hw⟩
      obtain ⟨k, rfl⟩ := Nat.dvd_of_mod_eq_zero h4
      have hk : k < 16 := by omega
      rw [Nat.mul_div_cancel_left _ (by omega)] at h
      interval_cases k <;> simp [Reg.all] at h <;> subst h <;> rfl
    · simp at h
  · rintro ⟨rfl, rfl⟩
    exact Reg.at_offset r

/-- The accesses that reach no register (R62 rows 1 and 2). -/
theorem Reg.at_eq_none {off width : Nat} :
    Reg.at off width = none ↔ width ≠ 32 ∨ off % 4 ≠ 0 ∨ 0x40 ≤ off := by
  unfold Reg.at
  split
  · next hc =>
    obtain ⟨h4, hw, hlt⟩ := hc
    have hk : off / 4 < 16 := by omega
    have hl : off / 4 < Reg.all.length := hk
    simp [List.getElem?_eq_getElem hl, h4, hw]
    omega
  · next hc =>
    simp only [true_iff]
    by_contra hn
    push Not at hn
    exact hc ⟨hn.2.1, hn.1, hn.2.2⟩

end Sys2Proof.Machine
end

