-- ==== Sys2Proof/Laws/Port.lean ====
section
/-! SUPPORT. What a transaction can do to the state, said once. -/

namespace Sys2Proof.Machine

/-- Everything a read of `DATA` can do to the state: nothing, but for the counter of draws (R63). -/
theorem dataRead_state {s : State} {d : Word × State} (h : dataRead s = some d) :
    d.2 = { s with draws := d.2.draws } := by
  unfold dataRead at h
  split at h <;> first | contradiction | (simp only [Option.some.injEq] at h; subst h)
  · exact readElem_state _ _ _ _
  · exact readElem_state _ _ _ _
  · exact readElem_state _ _ _ _
  · exact readElem_state _ _ _ _
  · unfold dataNode; split
    · exact readNode_state _ _
    · rfl
  · unfold dataCodelen; split
    · split <;> rfl
    · rfl
  · unfold dataCodebit; split
    · split
      · split <;> rfl
      · rfl
    · rfl

/-- Everything a read of a register can do to the state (R61, R73). -/
theorem regRead_state {r : Reg} {s : State} {d : Word × State} (h : regRead r s = some d) :
    d.2 = { s with draws := d.2.draws } := by
  cases r <;> first | exact dataRead_state h | (simp only [regRead, Option.some.injEq] at h; subst h; rfl)

/-- Everything a read transaction can do to the state (R73). -/
theorem hostRead_state (off width : Nat) (s : State) :
    hostRead off width s = { s with
      resp := (hostRead off width s).resp, draws := (hostRead off width s).draws } := by
  unfold hostRead
  split
  · rfl
  · split
    · rfl
    · next hd => exact congrArg (answerRead _) (regRead_state hd)

/-- Everything a `DATA` write can do: it stores a value that fits at `IDX` of FREQ, TEXT or BITS (R63 to R66). -/
theorem dataWrite_cases {v : Word} {s t : State} (h : dataWrite v s = some t) :
    (s.sel = 1#32 ∧ s.idx.toNat < s.cfg.nsymv ∧ v.toNat < s.cfg.wmax + 1 ∧
      t = { s with freq := s.freq.write s.idx.toNat v.toNat }) ∨
    (s.sel = 2#32 ∧ s.idx.toNat < s.cfg.textMax ∧ v.toNat < 2 ^ s.cfg.symW ∧
      t = { s with text := s.text.write s.idx.toNat v.toNat }) ∨
    (s.sel = 3#32 ∧ s.idx.toNat < s.cfg.bitsMax ∧ v.toNat < 2 ∧
      t = { s with bits := s.bits.write s.idx.toNat (v.getLsbD 0) }) := by
  unfold dataWrite at h
  cases hsp : dataSpace s with
  | none => simp [hsp] at h
  | some sp =>
    have hsel : Space.ofSel s.sel = some sp ∧ s.idx.toNat < sp.size s.cfg := by
      unfold dataSpace at hsp
      cases hs : Space.ofSel s.sel with
      | none => simp [hs] at hsp
      | some sp' =>
        simp only [hs] at hsp
        split at hsp
        · next hi =>
          cases hl : sp'.subLimit s.cfg with
          | none => simp only [hl, Option.some.injEq] at hsp; subst hsp; exact ⟨rfl, hi⟩
          | some n =>
            simp only [hl] at hsp
            split at hsp
            · simp only [Option.some.injEq] at hsp; subst hsp; exact ⟨rfl, hi⟩
            · simp at hsp
        · simp at hsp
    obtain ⟨hs, hi⟩ := hsel
    have hval : ∀ sp', Space.ofSel s.sel = some sp' → s.sel = sp'.sel := by
      intro sp' h'
      unfold Space.ofSel at h'
      split_ifs at h' <;> simp only [Option.some.injEq] at h' <;> subst h' <;> simpa [Space.sel]
    have hv := hval sp hs
    cases sp <;> simp only [hsp, Space.writeLimit] at h <;> first | contradiction | skip
    · split at h
      · next hlt => simp only [Option.some.injEq] at h; exact .inl ⟨hv, hi, hlt, h.symm⟩
      · simp at h
    · split at h
      · next hlt => simp only [Option.some.injEq] at h; exact .inr (.inl ⟨hv, hi, hlt, h.symm⟩)
      · simp at h
    · split at h
      · next hlt => simp only [Option.some.injEq] at h; exact .inr (.inr ⟨hv, hi, hlt, h.symm⟩)
      · simp at h

/-- Everything a write of a register other than `CMD` can do (R61). -/
theorem regWrite_cases {r : Reg} {v : Word} {s t : State} (h : regWrite r v s = some t) :
    (r = .tlen ∧ t = { s with tlen := v }) ∨ (r = .blen ∧ t = { s with blen := v }) ∨
    (r = .sel ∧ t = { s with sel := v }) ∨ (r = .idx ∧ t = { s with idx := v }) ∨
    (r = .sub ∧ t = { s with sub := v }) ∨ (r = .data ∧ dataWrite v s = some t) := by
  cases r <;> simp only [regWrite, Option.some.injEq] at h <;> first | contradiction | simp [← h]

/-! ### Steps -/

/-- With no event pending a step changes nothing. -/
theorem step_idle {s : State} (h : s.host = []) : step s = .next s := by simp [step, takeEvent, h]

/-- A step takes the first pending event. -/
theorem step_event {s : State} {e : HostEvent} {es : List HostEvent} (h : s.host = e :: es) :
    step s = onEvent exec e { s with host := es } := by simp [step, takeEvent, h]

/-- A write at another offset than `CMD`'s is a register write or refused. -/
theorem hostWrite_reg {run : Instr → State → Result} {off width : Nat} {v : Word} {s : State}
    (h : off ≠ 0x00) :
    hostWrite run off width v s = .next (refuseWrite s) ∨
    ∃ r, off = r.offset ∧ width = 32 ∧ hostWrite run off width v s = .next (hostWriteReg r v s) := by
  unfold hostWrite
  split
  · exact .inl rfl
  · next hr => exact absurd (Reg.at_eq_some.1 hr).1 h
  · next r _ hr => exact .inr ⟨r, (Reg.at_eq_some.1 hr).1, (Reg.at_eq_some.1 hr).2, rfl⟩

/-- A 32-bit write at offset 0 is a command (R22). -/
theorem hostWrite_cmd (run : Instr → State → Result) (v : Word) (s : State) :
    hostWrite run 0x00 32 v s = command run v s := rfl

/-- Everything a step can do, by the event it takes: an idle step, a read, a refused write, a register write, a
command, an illegal word, or reset. Invariants are proved from this, not from `step`. -/
theorem step_cases {s t : State} (h : step s = .next t) :
    (s.host = [] ∧ t = s) ∨
    ∃ e es, s.host = e :: es ∧
      ((∃ off width, e = .read off width ∧ t = hostRead off width { s with host := es }) ∨
       (∃ off width v, e = .write off width v ∧ t = refuseWrite { s with host := es }) ∨
       (∃ r v u, e = .write r.offset 32 v ∧ r ≠ .cmd ∧ regWrite r v { s with host := es } = some u ∧
         t = answerWrite u) ∨
       (∃ v i, e = .write 0x00 32 v ∧ decodeWord v = .ok i ∧ exec i { s with host := es } = .next t) ∨
       (∃ v x, e = .write 0x00 32 v ∧ decodeWord v = .error x ∧
         illegalCommand v { s with host := es } = .next t) ∨
       (e = .reset ∧ t = State.resetOf s.cfg es s.draws) ∨
       (∃ v, e = .cutByReset v ∧ t = State.resetOf s.cfg es s.draws)) := by
  cases hh : s.host with
  | nil => rw [step_idle hh] at h; cases h; exact .inl ⟨rfl, rfl⟩
  | cons e es =>
    rw [step_event hh] at h
    refine .inr ⟨e, es, rfl, ?_⟩
    cases e with
    | read off width =>
      simp only [onEvent, Host.Outcome.next.injEq] at h
      exact .inl ⟨off, width, rfl, h.symm⟩
    | write off width v =>
      simp only [onEvent] at h
      by_cases h0 : off = 0x00 ∧ width = 32
      · obtain ⟨rfl, rfl⟩ := h0
        rw [hostWrite_cmd] at h
        unfold command at h
        split at h
        · next i hi => exact .inr (.inr (.inr (.inl ⟨v, i, rfl, hi, h⟩)))
        · next x hx => exact .inr (.inr (.inr (.inr (.inl ⟨v, x, rfl, hx, h⟩))))
      · unfold hostWrite at h
        split at h
        · simp only [Host.Outcome.next.injEq] at h
          exact .inr (.inl ⟨off, width, v, rfl, h.symm⟩)
        · next hr => exact absurd (Reg.at_eq_some.1 hr) h0
        · next r hne hr =>
          obtain ⟨rfl, rfl⟩ := Reg.at_eq_some.1 hr
          simp only [Host.Outcome.next.injEq] at h
          unfold hostWriteReg at h
          split at h
          · exact .inr (.inl ⟨_, _, v, rfl, h.symm⟩)
          · next u hu =>
            refine .inr (.inr (.inl ⟨r, v, u, rfl, ?_, hu, h.symm⟩))
            rintro rfl
            exact absurd rfl (hne ·)
    | reset =>
      simp only [onEvent, Host.Outcome.next.injEq] at h
      exact .inr (.inr (.inr (.inr (.inr (.inl ⟨rfl, h.symm⟩)))))
    | cutByReset v =>
      simp only [onEvent, Host.Outcome.next.injEq] at h
      exact .inr (.inr (.inr (.inr (.inr (.inr ⟨v, rfl, h.symm⟩)))))

end Sys2Proof.Machine
end

