-- ==== Sys2Proof/Laws/Queue.lean ====
section
/-! SUPPORT. The priority queue (R13, R125): the order is strict and total, and the search for the least key finds it. -/

namespace Sys2Proof.Machine

/-- The queue order, in words (R13). -/
theorem before_iff {m : Memory Node} {a b : Nat} :
    before m a b = true ↔ weightOf m a < weightOf m b ∨ (weightOf m a = weightOf m b ∧ a < b) := by
  simp [before]

/-- Of two different nodes one is before the other. -/
theorem before_total (m : Memory Node) {a b : Nat} (h : a ≠ b) : before m a b = true ∨ before m b a = true := by
  simp only [before_iff]; omega

/-- The order is asymmetric. -/
theorem before_asymm {m : Memory Node} {a b : Nat} (h : before m a b = true) : before m b a = false := by
  rw [Bool.eq_false_iff, ne_eq, before_iff]; rw [before_iff] at h; omega

/-- The order is transitive. -/
theorem before_trans {m : Memory Node} {a b c : Nat} (h : before m a b = true) (h' : before m b c = true) :
    before m a c = true := by
  simp only [before_iff] at *; omega

/-- What the search finds: one of the candidates, and every other candidate comes after it. -/
theorem leastOf_spec (m : Memory Node) (best : Nat) (q : List Nat) :
    leastOf m best q ∈ best :: q ∧
    ∀ j ∈ best :: q, j ≠ leastOf m best q → before m (leastOf m best q) j = true := by
  induction q generalizing best with
  | nil => simp [leastOf]
  | cons i q ih =>
    simp only [leastOf]
    split
    · next hb =>
      obtain ⟨h1, h2⟩ := ih i
      refine ⟨List.mem_cons_of_mem _ h1, fun j hj hne => ?_⟩
      rcases List.mem_cons.1 hj with rfl | hj
      · by_cases hi : i = leastOf m i q
        · rw [← hi]; exact hb
        · exact before_trans (h2 i List.mem_cons_self hi) hb
      · exact h2 j hj hne
    · next hb =>
      obtain ⟨h1, h2⟩ := ih best
      refine ⟨?_, fun j hj hne => ?_⟩
      · rcases List.mem_cons.1 h1 with h1 | h1
        · rw [h1]; exact List.mem_cons_self
        · exact List.mem_cons_of_mem _ (List.mem_cons_of_mem _ h1)
      · rcases List.mem_cons.1 hj with rfl | hj
        · exact h2 j List.mem_cons_self hne
        · rcases List.mem_cons.1 hj with rfl | hj
          · by_cases hjb : best = j
            · subst hjb; exact h2 best List.mem_cons_self hne
            · have hbj : before m best j = true := (before_total m hjb).resolve_right hb
              by_cases hl : best = leastOf m best q
              · rw [← hl]; exact hbj
              · exact before_trans (h2 best List.mem_cons_self hl) hbj
          · exact h2 j (List.mem_cons_of_mem _ hj) hne

/-- The least of a queue that holds a node is in it, and every other node of it comes after. -/
theorem queueMin_spec (m : Memory Node) {q : List Nat} (h : q ≠ []) :
    queueMin m q ∈ q ∧ ∀ j ∈ q, j ≠ queueMin m q → before m (queueMin m q) j = true := by
  cases q with
  | nil => exact absurd rfl h
  | cons i q => exact leastOf_spec m i q


end Sys2Proof.Machine
end

