-- ==== Sys2Proof/Laws/Engines.lean ====
section
/-! SUPPORT. What each engine can change: one frame a command, proved once from its turns. A frame says "t is s but for these
fields". -/

namespace Sys2Proof.Machine

/-! ### COUNT -/

/-- A turn of the counting loop changes FREQ and the hidden state only (R115). -/
theorem countTurn_frame (s : State) :
    countTurn s = { s with
      freq := (countTurn s).freq, work := (countTurn s).work, draws := (countTurn s).draws } := by
  simp only [countTurn, writeFreq, readFreq, readText]
  rw [readElem_state, readElem_state s.text]

/-- COUNT changes FREQ, the hidden state and, when it raises, the latch (R115). -/
theorem countEngine_frame (s : State) :
    countEngine s = { s with
      err := (countEngine s).err, freq := (countEngine s).freq, work := (countEngine s).work,
      draws := (countEngine s).draws } := by
  have h : ∀ u, u = countTurn^[s.tlen.toNat] (freshTable s) →
      u = { s with freq := u.freq, work := u.work, draws := u.draws } := by
    rintro u rfl
    exact iterate_induct (turn := countTurn)
      (P := fun _ t => t = { s with freq := t.freq, work := t.work, draws := t.draws })
      (fun k u hu => by rw [countTurn_frame u]; rw [hu]) s.tlen.toNat 0 (freshTable s) rfl
  unfold countEngine
  split
  · rfl
  · rw [h _ rfl]

/-! ### BUILD -/

/-- Putting a node into the arena and the queue changes NODE and the hidden state only. -/
theorem appendNode_frame (nd : Node) (s : State) :
    appendNode nd s = { s with node := (appendNode nd s).node, work := (appendNode nd s).work } := rfl

/-- Everything a turn of the seed scan can do: skip an absent symbol, raise CapacityExceeded 2, or add a leaf
(R122, R124). -/
theorem seedTurn_cases (s : State) :
    ((readFreq s.work.scan s).1 = 0 ∧ seedTurn s = .running (advanceScan (readFreq s.work.scan s).2)) ∨
    ((readFreq s.work.scan s).1 ≠ 0 ∧ s.work.next = s.cfg.maxLeaf ∧
      seedTurn s = .raised (raise Instr.build.opc .capacityExceeded 2#4 (wordOf s.cfg.maxLeaf) s.work.scan
        (readFreq s.work.scan s).2)) ∨
    ((readFreq s.work.scan s).1 ≠ 0 ∧ s.work.next ≠ s.cfg.maxLeaf ∧
      seedTurn s = .running (advanceScan (seedLeaf (readFreq s.work.scan s).1 (readFreq s.work.scan s).2))) := by
  unfold seedTurn
  by_cases h0 : (readFreq s.work.scan s).1 = 0
  · exact .inl ⟨h0, by simp [h0]⟩
  · by_cases h1 : s.work.next = s.cfg.maxLeaf
    · exact .inr (.inl ⟨h0, h1, by simp [h0, h1]⟩)
    · exact .inr (.inr ⟨h0, h1, by simp [h0, h1]⟩)

/-- The seed scan changes NODE and the hidden state and, when it raises, the latch. -/
theorem seedLoop_frame (n : Nat) (s : State) :
    (∀ t, Pass.loop seedTurn n s = .running t →
      t = { s with node := t.node, work := t.work, draws := t.draws }) ∧
    (∀ t, Pass.loop seedTurn n s = .raised t →
      t = { s with err := t.err, node := t.node, work := t.work, draws := t.draws } ∧
      t.err.code = 5#4 ∧ t.err.sub = 2#4 ∧ t.err.op = 2#8) := by
  refine Pass.loop_induct (P := fun t => t = { s with node := t.node, work := t.work, draws := t.draws })
    (fun u t hu ht => ?_) (fun u t hu ht => ?_) n s rfl
  · rcases seedTurn_cases u with ⟨-, h⟩ | ⟨-, -, h⟩ | ⟨-, -, h⟩ <;> rw [h] at ht
    · cases ht; simp only [advanceScan, readFreq]; rw [readElem_state, hu]
    · cases ht
    · cases ht; simp only [advanceScan, seedLeaf, appendNode, writeNode, readFreq]; rw [readElem_state, hu]
  · rcases seedTurn_cases u with ⟨-, h⟩ | ⟨-, -, h⟩ | ⟨-, -, h⟩ <;> rw [h] at ht
    · cases ht
    · cases ht
      refine ⟨?_, rfl, rfl, rfl⟩
      simp only [raise, readFreq]; rw [readElem_state, hu]
    · cases ht

/-- A merge changes NODE and the hidden state only (R127). -/
theorem mergeTurn_frame (s : State) :
    mergeTurn s = { s with node := (mergeTurn s).node, work := (mergeTurn s).work } := by
  simp only [mergeTurn, extractMin, dequeue, appendNode, writeNode]

/-- The merge loop changes NODE and the hidden state only. -/
theorem mergeLoop_frame (n : Nat) (s : State) :
    mergeLoop n s = { s with node := (mergeLoop n s).node, work := (mergeLoop n s).work } := by
  induction n generalizing s with
  | zero => rfl
  | succ n ih =>
    simp only [mergeLoop]
    split
    · rw [ih (mergeTurn s), mergeTurn_frame s]
    · rfl

/-- Everything BUILD can do, by how it ends: an error and no tree (R132), or a tree (R128). In both cases nothing
but the tree's registers and flags, NODE, the hidden state and the latch changes. -/
theorem buildEngine_cases (s : State) :
    (buildEngine s = { s with
        treeValid := false, codesValid := false, nleaf := 0#32, nnode := 0#32, root := nilIndex,
        cur := nilIndex, err := (buildEngine s).err, node := (buildEngine s).node,
        work := (buildEngine s).work, draws := (buildEngine s).draws } ∧
      (buildEngine s).err.op = 2#8 ∧
      (((buildEngine s).err.code = 5#4 ∧ (buildEngine s).err.sub = 2#4) ∨
       ((buildEngine s).err.code = 1#4 ∧ (buildEngine s).err.sub = 0#4) ∨
       ((buildEngine s).err.code = 5#4 ∧ (buildEngine s).err.sub = 3#4))) ∨
    ((buildEngine s).treeValid = true ∧
      buildEngine s = { s with
        treeValid := true, codesValid := false, nleaf := (buildEngine s).nleaf,
        nnode := (buildEngine s).nnode, root := (buildEngine s).root, cur := nilIndex,
        node := (buildEngine s).node, work := (buildEngine s).work, draws := (buildEngine s).draws } ∧
      ∃ t, Pass.loop seedTurn s.cfg.nsymv (startBuild s) = .running t ∧ t.work.next ≠ 0 ∧
        t.work.total ≤ s.cfg.wmax ∧
        buildEngine s = finishBuild t.work.next (mergeLoop t.work.qcnt t)) := by
  obtain ⟨hrun, hraise⟩ := seedLoop_frame s.cfg.nsymv (startBuild s)
  cases hl : Pass.loop seedTurn s.cfg.nsymv (startBuild s) with
  | raised t =>
    obtain ⟨hf, h1, h2, h3⟩ := hraise t hl
    have he : buildEngine s = t := by simp [buildEngine, hl]
    rw [he]
    exact .inl ⟨by rw [hf]; rfl, h3, .inl ⟨h1, h2⟩⟩
  | running t =>
    have hf := hrun t hl
    have he : buildEngine s = afterSeed t := by simp [buildEngine, hl]
    rw [he]
    unfold afterSeed
    split
    · exact .inl ⟨by rw [hf]; rfl, rfl, .inr (.inl ⟨rfl, rfl⟩)⟩
    · next hn =>
      have hc : t.cfg = s.cfg := by rw [hf]; rfl
      split
      · exact .inl ⟨by rw [hf]; rfl, rfl, .inr (.inr ⟨rfl, rfl⟩)⟩
      · next ht =>
        refine .inr ⟨rfl, ?_, t, rfl, hn, by rw [hc] at ht; omega, rfl⟩
        rw [mergeLoop_frame, hf]; rfl

/-! ### GENCODES -/

/-- The walk changes CODE and the hidden state only, and leaves the path and the pending children as it found
them. -/
theorem walk_frame (room : Nat) (i : Word) (s t : State) (h : walk room i s = some t) :
    t = { s with code := t.code, work := t.work, draws := t.draws } ∧
    t.work = { s.work with path := t.work.path, depth := t.work.depth, stk := t.work.stk } ∧
    t.work.path = s.work.path ∧ t.work.depth = s.work.depth ∧ t.work.stk = s.work.stk := by
  induction room generalizing i s t with
  | zero =>
    simp only [walk] at h
    split at h
    · simp only [Option.some.injEq] at h; subst h
      refine ⟨?_, by simp, by simp, by simp, by simp⟩
      simp only [recordCode, writeCode]; rw [readNode_state]
    · cases h
  | succ room ih =>
    simp only [walk] at h
    split at h
    · simp only [Option.some.injEq] at h; subst h
      refine ⟨?_, by simp, by simp, by simp, by simp⟩
      simp only [recordCode, writeCode]; rw [readNode_state]
    · split at h
      · cases h
      · next u hu =>
        split at h
        · cases h
        · next v hv =>
          simp only [Option.some.injEq] at h; subst h
          obtain ⟨u0, u4, u1, u2, u3⟩ := ih _ _ _ hu
          obtain ⟨v0, v4, v1, v2, v3⟩ := ih _ _ _ hv
          simp only [descendLeft_work, readNode_work, turnRight_work] at u1 u2 u3 u4 v1 v2 v3 v4
          refine ⟨?_, ?_, ?_, ?_, ?_⟩
          · simp only [ascend]
            rw [v0]; simp only [turnRight]; rw [u0]; simp only [descendLeft]; rw [readNode_state]
          · simp only [ascend_work]; rw [v4, u4]
          · simp [ascend, v1, u1]
          · simp [ascend, v2, u2]
          · simp [ascend, v3, u3]

/-- Everything GENCODES can do: NotReady, or a table from a tree (R141, R144). -/
theorem gencodesEngine_cases {s t : State} (h : gencodesEngine s = some t) :
    (s.treeValid = false ∧ t = raise Instr.gencodes.opc .notReady 0#4 0#32 0 s) ∨
    (s.treeValid = true ∧
      t = { s with codesValid := true, code := t.code, work := t.work, draws := t.draws }) := by
  unfold gencodesEngine at h
  split at h
  · next hv => simp only [Option.some.injEq] at h; exact .inl ⟨hv, h.symm⟩
  · next hv =>
    have hv : s.treeValid = true := by simpa using hv
    refine .inr ⟨hv, ?_⟩
    dsimp only at h
    split at h
    · simp only [Option.some.injEq] at h; subst h
      simp only [codesDone, singleCode, writeCode]; rw [readNode_state]; rfl
    · rw [Option.map_eq_some_iff] at h
      obtain ⟨u, hu, rfl⟩ := h
      have hw := (walk_frame _ _ _ _ hu).1
      simp only [codesDone]; rw [hw]; rfl

/-! ### ENCODE -/

/-- Everything a turn of the encoding loop can do (R150): UnknownSymbol, CapacityExceeded 4, or a code is
appended. -/
theorem encodeTurn_cases (s : State) :
    (lookupCode (readText s.work.tpos s).1 s = none ∧
      encodeTurn s = .raised (raise Instr.encode.opc .unknownSymbol 0#4 (wordOf s.work.tpos)
        (readText s.work.tpos s).1 (readText s.work.tpos s).2)) ∨
    (∃ c, lookupCode (readText s.work.tpos s).1 s = some c ∧ s.work.bpos + c.length > s.cfg.bitsMax ∧
      encodeTurn s = .raised (raise Instr.encode.opc .capacityExceeded 4#4 (wordOf s.work.tpos)
        (readText s.work.tpos s).1 (readText s.work.tpos s).2)) ∨
    (∃ c, lookupCode (readText s.work.tpos s).1 s = some c ∧ s.work.bpos + c.length ≤ s.cfg.bitsMax ∧
      encodeTurn s = .running (appendCode c (readText s.work.tpos s).2)) := by
  unfold encodeTurn
  have hl : ∀ x, lookupCode x (readText s.work.tpos s).2 = lookupCode x s := fun x => by simp [lookupCode]
  simp only [hl]
  cases hc : lookupCode (readText s.work.tpos s).1 s with
  | none => exact .inl ⟨rfl, by simp⟩
  | some c =>
    by_cases hb : s.work.bpos + c.length > s.cfg.bitsMax
    · exact .inr (.inl ⟨c, rfl, hb, by simp [hb]⟩)
    · exact .inr (.inr ⟨c, rfl, by omega, by simp [hb]⟩)

/-- The encoding loop changes BITS and the hidden state and, when it raises, the latch. -/
theorem encodeLoop_frame (n : Nat) (s : State) :
    (∀ t, Pass.loop encodeTurn n s = .running t →
      t = { s with bits := t.bits, work := t.work, draws := t.draws }) ∧
    (∀ t, Pass.loop encodeTurn n s = .raised t →
      t = { s with err := t.err, bits := t.bits, work := t.work, draws := t.draws } ∧ t.err.op = 4#8 ∧
      ((t.err.code = 2#4 ∧ t.err.sub = 0#4) ∨ (t.err.code = 5#4 ∧ t.err.sub = 4#4))) := by
  refine Pass.loop_induct (P := fun t => t = { s with bits := t.bits, work := t.work, draws := t.draws })
    (fun u t hu ht => ?_) (fun u t hu ht => ?_) n s rfl
  · rcases encodeTurn_cases u with ⟨-, h⟩ | ⟨c, -, -, h⟩ | ⟨c, -, -, h⟩ <;> rw [h] at ht <;> cases ht
    simp only [appendCode, writeBitRun, readText]; rw [readElem_state, hu]
  · rcases encodeTurn_cases u with ⟨-, h⟩ | ⟨c, -, -, h⟩ | ⟨c, -, -, h⟩ <;> rw [h] at ht <;> cases ht
    · refine ⟨?_, rfl, .inl ⟨rfl, rfl⟩⟩
      simp only [raise, readText]; rw [readElem_state, hu]
    · refine ⟨?_, rfl, .inr ⟨rfl, rfl⟩⟩
      simp only [raise, readText]; rw [readElem_state, hu]

/-- Everything ENCODE can do: NotReady; an error, with BLEN 0 (R155); or a stream. -/
theorem encodeEngine_cases (s : State) :
    (s.codesValid = false ∧ encodeEngine s = raise Instr.encode.opc .notReady 0#4 0#32 0 s) ∨
    (s.codesValid = true ∧
      encodeEngine s = { s with
        err := (encodeEngine s).err, blen := 0#32, bits := (encodeEngine s).bits,
        work := (encodeEngine s).work, draws := (encodeEngine s).draws } ∧
      (encodeEngine s).err.op = 4#8 ∧
      (((encodeEngine s).err.code = 5#4 ∧ (encodeEngine s).err.sub = 1#4) ∨
       ((encodeEngine s).err.code = 2#4 ∧ (encodeEngine s).err.sub = 0#4) ∨
       ((encodeEngine s).err.code = 5#4 ∧ (encodeEngine s).err.sub = 4#4))) ∨
    (s.codesValid = true ∧
      encodeEngine s = { s with
        blen := (encodeEngine s).blen, bits := (encodeEngine s).bits,
        work := (encodeEngine s).work, draws := (encodeEngine s).draws }) := by
  by_cases hv : s.codesValid = false
  · exact .inl ⟨hv, by simp [encodeEngine, hv]⟩
  · have hv' : s.codesValid = true := by simpa using hv
    refine .inr ?_
    obtain ⟨hrun, hraise⟩ := encodeLoop_frame (startEncode s).tlen.toNat (startEncode s)
    unfold encodeEngine
    rw [if_neg hv]
    dsimp only
    split
    · exact .inl ⟨hv', rfl, rfl, .inl ⟨rfl, rfl⟩⟩
    · split
      · next u hu =>
        obtain ⟨h1, h2, h3⟩ := hraise u hu
        exact .inl ⟨hv', by rw [h1]; rfl, h2, .inr h3⟩
      · next u hu => exact .inr ⟨hv', by rw [hrun u hu]; rfl⟩

/-! ### DECODE -/

/-- Everything `Emit` can do (R162): CapacityExceeded 5, or a symbol appended to OUT. -/
theorem emit_cases (x : Nat) (s : State) :
    (s.work.opos = s.cfg.outMax ∧
      emit x s = .raised (raise Instr.decode.opc .capacityExceeded 5#4 (wordOf s.work.bpos) x s)) ∨
    (s.work.opos ≠ s.cfg.outMax ∧
      emit x s = .running { s with
        out := s.out.write s.work.opos x, work := { s.work with opos := s.work.opos + 1 } }) := by
  unfold emit
  split
  · next h => exact .inl ⟨h, rfl⟩
  · next h => exact .inr ⟨h, rfl⟩

/-- A turn of the decoding loop changes OUT, the cursor and the hidden state and, when it raises, the latch. -/
theorem decodeTurn_frame (s : State) :
    (∀ t, decodeTurn s = .running t →
      t = { s with out := t.out, cur := t.cur, work := t.work, draws := t.draws }) ∧
    (∀ t, decodeTurn s = .raised t →
      t = { s with err := t.err, out := t.out, cur := t.cur, work := t.work, draws := t.draws } ∧
      t.err.op = 5#8 ∧
      ((t.err.code = 3#4 ∧ t.err.sub = 1#4) ∨ (t.err.code = 5#4 ∧ t.err.sub = 5#4))) := by
  have hb : (readBits s.work.bpos s).2 = { s with draws := (readBits s.work.bpos s).2.draws } :=
    readElem_state _ _ _ _
  unfold decodeTurn
  dsimp only
  generalize (readBits s.work.bpos s).1 = b
  generalize (readBits s.work.bpos s).2 = u at hb
  have single : (∀ t, singleBit b u = .running t →
      t = { u with out := t.out, cur := t.cur, work := t.work, draws := t.draws }) ∧
    (∀ t, singleBit b u = .raised t →
      t = { u with err := t.err, out := t.out, cur := t.cur, work := t.work, draws := t.draws } ∧
      t.err.op = 5#8 ∧
      ((t.err.code = 3#4 ∧ t.err.sub = 1#4) ∨ (t.err.code = 5#4 ∧ t.err.sub = 5#4))) := by
    unfold singleBit
    by_cases hbb : b = true
    · refine ⟨fun t ht => ?_, fun t ht => ?_⟩
      · simp [hbb] at ht
      · simp only [hbb, if_true, Pass.raised.injEq] at ht; subst ht
        exact ⟨rfl, rfl, .inl ⟨rfl, rfl⟩⟩
    · simp only [hbb, Bool.false_eq_true, if_false]
      rcases emit_cases (readNode u.root.toNat u).1.sym (readNode u.root.toNat u).2 with ⟨-, h⟩ | ⟨-, h⟩ <;>
        simp only [h]
      · refine ⟨fun t ht => (by simp at ht), fun t ht => ?_⟩
        simp only [Pass.raised.injEq] at ht; subst ht
        refine ⟨?_, rfl, .inr ⟨rfl, rfl⟩⟩
        simp only [raise]; rw [readNode_state]
      · refine ⟨fun t ht => ?_, fun t ht => (by simp at ht)⟩
        simp only [Pass.running.injEq] at ht; subst ht
        simp only [nextBit]; rw [readNode_state]
  have tree : (∀ t, treeBit b u = .running t →
      t = { u with out := t.out, cur := t.cur, work := t.work, draws := t.draws }) ∧
    (∀ t, treeBit b u = .raised t →
      t = { u with err := t.err, out := t.out, cur := t.cur, work := t.work, draws := t.draws } ∧
      t.err.op = 5#8 ∧
      ((t.err.code = 3#4 ∧ t.err.sub = 1#4) ∨ (t.err.code = 5#4 ∧ t.err.sub = 5#4))) := by
    unfold treeBit
    dsimp only
    have hc := readNode_state u.cur.toNat u
    generalize (readNode u.cur.toNat u).1 = nd
    generalize (readNode u.cur.toNat u).2 = v at hc
    have hd := readNode_state (moveCur (if b then nd.right else nd.left) v).cur.toNat
      (moveCur (if b then nd.right else nd.left) v)
    generalize (readNode (moveCur (if b then nd.right else nd.left) v).cur.toNat
      (moveCur (if b then nd.right else nd.left) v)).1 = ch
    generalize (readNode (moveCur (if b then nd.right else nd.left) v).cur.toNat
      (moveCur (if b then nd.right else nd.left) v)).2 = w at hd
    have hw : w = { u with cur := w.cur, draws := w.draws } := by
      rw [hd]; simp only [moveCur]; rw [hc]
    split
    · rcases emit_cases ch.sym w with ⟨-, h⟩ | ⟨-, h⟩ <;> simp only [h]
      · refine ⟨fun t ht => (by simp at ht), fun t ht => ?_⟩
        simp only [Pass.raised.injEq] at ht; subst ht
        refine ⟨?_, rfl, .inr ⟨rfl, rfl⟩⟩
        simp only [raise]; rw [hw]
      · refine ⟨fun t ht => ?_, fun t ht => (by simp at ht)⟩
        simp only [Pass.running.injEq] at ht; subst ht
        simp only [nextBit, moveCur]; rw [hw]
    · refine ⟨fun t ht => ?_, fun t ht => (by simp at ht)⟩
      simp only [Pass.running.injEq] at ht; subst ht
      simp only [nextBit]; rw [hw]
  split
  · refine ⟨fun t ht => ?_, fun t ht => ?_⟩
    · rw [single.1 t ht, hb]
    · obtain ⟨h1, h2⟩ := single.2 t ht
      exact ⟨by rw [h1, hb], h2⟩
  · refine ⟨fun t ht => ?_, fun t ht => ?_⟩
    · rw [tree.1 t ht, hb]
    · obtain ⟨h1, h2⟩ := tree.2 t ht
      exact ⟨by rw [h1, hb], h2⟩

/-- The decoding loop changes OUT, the cursor and the hidden state and, when it raises, the latch. -/
theorem decodeLoop_frame (n : Nat) (s : State) :
    (∀ t, Pass.loop decodeTurn n s = .running t →
      t = { s with out := t.out, cur := t.cur, work := t.work, draws := t.draws }) ∧
    (∀ t, Pass.loop decodeTurn n s = .raised t →
      t = { s with err := t.err, out := t.out, cur := t.cur, work := t.work, draws := t.draws } ∧
      t.err.op = 5#8 ∧
      ((t.err.code = 3#4 ∧ t.err.sub = 1#4) ∨ (t.err.code = 5#4 ∧ t.err.sub = 5#4))) := by
  refine Pass.loop_induct
    (P := fun t => t = { s with out := t.out, cur := t.cur, work := t.work, draws := t.draws })
    (fun u t hu ht => ?_) (fun u t hu ht => ?_) n s rfl
  · rw [(decodeTurn_frame u).1 t ht, hu]
  · obtain ⟨h1, h2⟩ := (decodeTurn_frame u).2 t ht
    exact ⟨by rw [h1, hu], h2⟩

/-- Everything DECODE can do: NotReady; an error, with OLEN 0 (R168); or a text, with the cursor at the root. -/
theorem decodeEngine_cases (s : State) :
    (s.treeValid = false ∧ decodeEngine s = raise Instr.decode.opc .notReady 0#4 0#32 0 s) ∨
    (s.treeValid = true ∧
      decodeEngine s = { s with
        err := (decodeEngine s).err, olen := 0#32, cur := (decodeEngine s).cur, out := (decodeEngine s).out,
        work := (decodeEngine s).work, draws := (decodeEngine s).draws } ∧
      (decodeEngine s).err.op = 5#8 ∧
      (((decodeEngine s).err.code = 5#4 ∧ (decodeEngine s).err.sub = 1#4) ∨
       ((decodeEngine s).err.code = 3#4 ∧ (decodeEngine s).err.sub = 1#4) ∨
       ((decodeEngine s).err.code = 5#4 ∧ (decodeEngine s).err.sub = 5#4) ∨
       ((decodeEngine s).err.code = 3#4 ∧ (decodeEngine s).err.sub = 2#4))) ∨
    (s.treeValid = true ∧
      decodeEngine s = { s with
        olen := (decodeEngine s).olen, cur := s.root, out := (decodeEngine s).out,
        work := (decodeEngine s).work, draws := (decodeEngine s).draws }) := by
  by_cases hv : s.treeValid = false
  · exact .inl ⟨hv, by simp [decodeEngine, hv]⟩
  · have hv' : s.treeValid = true := by simpa using hv
    refine .inr ?_
    obtain ⟨hrun, hraise⟩ := decodeLoop_frame (startDecode s).blen.toNat (startDecode s)
    unfold decodeEngine
    rw [if_neg hv]
    dsimp only
    split
    · exact .inl ⟨hv', rfl, rfl, .inl ⟨rfl, rfl⟩⟩
    · split
      · next u hu =>
        obtain ⟨h1, h2, h3⟩ := hraise u hu
        refine .inl ⟨hv', by rw [h1]; rfl, h2, ?_⟩
        rcases h3 with h3 | h3
        · exact .inr (.inl h3)
        · exact .inr (.inr (.inl h3))
      · next u hu =>
        have hf := hrun u hu
        unfold finishDecode
        split
        · next hc =>
          refine .inr ⟨hv', ?_⟩
          have hr : u.root = s.root := by rw [hf]; rfl
          rw [hr] at hc
          have e : ∀ (x : Word) (v : State), v = u → { v with olen := x } = { s with
              olen := x, cur := v.cur, out := v.out, work := v.work, draws := v.draws } := by
            rintro x v rfl
            rw [hf]; rfl
          exact (e (wordOf u.work.opos) u rfl).trans (by rw [hc])
        · refine .inl ⟨hv', ?_, rfl, .inr (.inr (.inr ⟨rfl, rfl⟩))⟩
          rw [hf]; rfl

/-! ### Commands -/

/-- Everything a command can do: with an error latched the five working commands are refused; otherwise each does
what its engine does, and is answered. -/
theorem exec_cases {i : Instr} {s t : State} (h : exec i s = .next t) :
    (i = .nop ∧ t = answerWrite s) ∨ (i = .clrerr ∧ t = answerWrite (clearErr s)) ∨
    (i = .clear ∧ t = answerWrite (clearBlock s)) ∨
    (s.latched ∧ i ∉ [Instr.nop, .clrerr, .clear] ∧ t = refuseWrite s) ∨
    (s.err.code = 0#4 ∧
      ((i = .count ∧ t = answerWrite (countEngine s)) ∨ (i = .build ∧ t = answerWrite (buildEngine s)) ∨
       (i = .gencodes ∧ ∃ u, gencodesEngine s = some u ∧ t = answerWrite u) ∨
       (i = .encode ∧ t = answerWrite (encodeEngine s)) ∨
       (i = .decode ∧ t = answerWrite (decodeEngine s)))) := by
  cases i <;> simp only [exec] at h
  case nop => exact .inl ⟨rfl, finish_next h⟩
  case clrerr => exact .inr (.inl ⟨rfl, finish_next h⟩)
  case clear => exact .inr (.inr (.inl ⟨rfl, finish_next h⟩))
  all_goals
    refine .inr (.inr (.inr ?_))
    rcases accepted_next h with ⟨hl, rfl⟩ | ⟨h0, h⟩
    · exact .inl ⟨hl, by decide, rfl⟩
    · refine .inr ⟨h0, ?_⟩
      first
        | exact .inl ⟨rfl, finish_next h⟩
        | exact .inr (.inl ⟨rfl, finish_next h⟩)
        | exact .inr (.inr (.inr (.inl ⟨rfl, finish_next h⟩)))
        | exact .inr (.inr (.inr (.inr ⟨rfl, finish_next h⟩)))
        | (refine .inr (.inr (.inl ⟨rfl, ?_⟩))
           cases hg : gencodesEngine s with
           | none => simp [hg] at h
           | some u => simp only [hg] at h; exact ⟨u, rfl, finish_next h⟩)

end Sys2Proof.Machine
end

