-- ==== Sys2Proof/Laws/PerInstr.lean ====
section
/-! SUPPORT. Statements made of every command as syntax, one lemma a constructor. -/

namespace Sys2Proof.Laws.Encoding

/-- What every command word looks like (R90, R92): nothing in it is ill formed, its `ZERO` field is zero and its
`OPC` field is the command's opcode, below 16. -/
def Statement (i : Instr) : Prop :=
  i.wellFormed = true ∧ (encode i).extractLsb' 8 24 = 0#24 ∧ (encode i).extractLsb' 0 8 = i.opc ∧ i.opc.toNat < 16

theorem nop : Statement .nop := by unfold Statement; decide
theorem count : Statement .count := by unfold Statement; decide
theorem build : Statement .build := by unfold Statement; decide
theorem gencodes : Statement .gencodes := by unfold Statement; decide
theorem encode : Statement .encode := by unfold Statement; decide
theorem decode : Statement .decode := by unfold Statement; decide
theorem clrerr : Statement .clrerr := by unfold Statement; decide
theorem clear : Statement .clear := by unfold Statement; decide

end Sys2Proof.Laws.Encoding
end

