-- ==== Sys2Proof/Machine/HostScript.lean ====
section
/-! DEFINITION. The host script (R101, R102): each line and each pseudo-instruction as the transactions it stands for. -/

namespace Sys2Proof.Machine.HostScript

/-- `WR <reg>, <value>` (R101). -/
def wr (r : Reg) (v : Word) : HostEvent := .write r.offset 32 v

/-- `RD <reg>` (R101). -/
def rd (r : Reg) : HostEvent := .read r.offset 32

/-- `CMD <mnemonic>` (R101). -/
def cmd (i : Instr) : HostEvent := .write Reg.cmd.offset 32 (Sys2Proof.encode i)

/-- `PUT <space>[<i>], <v>` (R102). -/
def put (sp : Space) (i v : Nat) : List HostEvent :=
  [wr .sel sp.sel, wr .idx (wordOf i), wr .data (wordOf v)]

/-- `GET <space>[<i>]` (R102). -/
def get (sp : Space) (i : Nat) : List HostEvent := [wr .sel sp.sel, wr .idx (wordOf i), rd .data]

/-- `GET NODE[<i>].<field>` and `GET CODEBIT[<s>].<k>` (R102). -/
def getSub (sp : Space) (i k : Nat) : List HostEvent :=
  [wr .sel sp.sel, wr .idx (wordOf i), wr .sub (wordOf k), rd .data]

/-- `PUT` of a run of elements from index `i` on. -/
def putRun (sp : Space) : Nat → List Nat → List HostEvent
  | _, [] => []
  | i, v :: vs => put sp i v ++ putRun sp (i + 1) vs

/-- `LOADTEXT` (R102). -/
def loadText (xs : List Nat) : List HostEvent := putRun .text 0 xs ++ [wr .tlen (wordOf xs.length)]

/-- `LOADBITS` (R102). -/
def loadBits (bs : List Bool) : List HostEvent :=
  putRun .bits 0 (bs.map Bool.toNat) ++ [wr .blen (wordOf bs.length)]

/-- `LOADFREQ` (R102): it begins with CLEAR. -/
def loadFreq (table : List (Nat × Nat)) : List HostEvent :=
  cmd .clear :: table.flatMap (fun e => put .freq e.1 e.2)

/-- `COMPRESS` (R102). -/
def compress : List HostEvent := [cmd .count, cmd .build, cmd .gencodes, cmd .encode]

/-- `ROUNDTRIP` (R102). -/
def roundtrip : List HostEvent := compress ++ [cmd .decode]

end Sys2Proof.Machine.HostScript
end

