-- ==== Sys2Proof/Tests/Slice0.lean ====
section
/-! SUPPORT. Tests: the smoke tests of WellFormed, the decoding of written-out words, small tests of each command against
95_test_vectors.md (their numbers V<n> are named), and a witness for each statement that has hypotheses. -/

namespace Sys2Proof.Tests

open Sys2Proof Sys2Proof.Machine

/-! ### Helpers -/

/-- A small instance. -/
abbrev small : Config := { symW := 2, wW := 4, maxLeaf := 4, textMax := 7, bitsMax := 12, outMax := 7 }

/-- An instance after reset, with `es` to do. -/
abbrev blank (c : Config) (es : List HostEvent := []) : State := State.resetOf c es 0

/-- A memory that holds the list from index 0 on. -/
def listed {α : Type} (vs : List α) : Memory α := Memory.writeRun [] 0 vs

/-- The state with a text. -/
def loaded (xs : List Nat) (s : State) : State := { s with tlen := wordOf xs.length, text := listed xs }

/-- The state with a bit-string. -/
def streamed (ds : List Bool) (s : State) : State := { s with blen := wordOf ds.length, bits := listed ds }

/-- The state with a table of counts. -/
def counted (fs : List Nat) (s : State) : State := { s with freq := listed fs }

/-- The state with the host's events. -/
def asked (es : List HostEvent) (s : State) : State := { s with host := es }

/-- The state with an error latched: MalformedStream 2 of DECODE. -/
def failed (s : State) : State := { s with err := ⟨3#4, 2#4, 0x05#8, 1#32, 0#32⟩ }

/-- The tree of "aabbbcc" (V1), its symbols a, b, c being 0, 1, 2. -/
def tree3 : State :=
  { blank small with
    treeValid := true, nleaf := 3#32, nnode := 5#32, root := 4#32
    node := listed [⟨2, true, 0, nilIndex, nilIndex⟩, ⟨3, true, 1, nilIndex, nilIndex⟩,
      ⟨2, true, 2, nilIndex, nilIndex⟩, ⟨4, false, 0, 0#32, 2#32⟩, ⟨7, false, 0, 1#32, 3#32⟩] }

/-- The same with its codes, b = 0, a = 10, c = 11 (V1). -/
def codes3 : State :=
  { tree3 with codesValid := true, code := listed [[true, false], [false], [true, true]] }

/-- The single-symbol tree (V28). -/
def tree1 : State :=
  { blank small with
    treeValid := true, nleaf := 1#32, nnode := 1#32, root := 0#32
    node := listed [⟨4, true, 0, nilIndex, nilIndex⟩] }

/-- The tree of two symbols of count 1 in T2 (V95), with OUT of one element. -/
def tree2 : State :=
  { blank { Config.t2 with outMax := 1 } with
    treeValid := true, nleaf := 2#32, nnode := 3#32, root := 2#32
    node := listed [⟨1, true, 0, nilIndex, nilIndex⟩, ⟨1, true, 1, nilIndex, nilIndex⟩,
      ⟨2, false, 0, 0#32, 1#32⟩] }

/-- The state a step or a command leaves. -/
def after : Result → Option State
  | .next s => some s
  | .fault _ => none
  | .refused _ => none

/-- One observation of the state a command leaves. -/
def sees {α : Type} (f : State → α) (r : Result) : Option α := (after r).map f

/-! ### The trees meet R51 and R52 -/

theorem tree3_inv : TreeInv tree3 := by decide
theorem tree1_inv : TreeInv tree1 := by decide
theorem tree2_inv : TreeInv tree2 := by decide
theorem codes3_inv : CodeInv codes3 := by decide

/-! ### WellFormed refuses ill-formed terms (R5, R90) -/

theorem test_valid_t8 : Config.t8.Valid := by decide
theorem test_valid_t2 : Config.t2.Valid := by decide
theorem test_symW_refused : ¬ Config.Valid { Config.t2 with symW := 0 } ∧ ¬ Config.Valid { Config.t2 with symW := 32 } := by
  refine ⟨by decide, fun h => absurd h.1.2 (by decide)⟩
theorem test_wW_refused : ¬ Config.Valid { Config.t2 with wW := 33 } := by decide
theorem test_maxLeaf_refused : ¬ Config.Valid { Config.t2 with maxLeaf := 5 } := by decide
theorem test_textMax_refused : ¬ Config.Valid { Config.t2 with textMax := 8 } := by decide
theorem test_bitsMax_refused : ¬ Config.Valid { Config.t2 with bitsMax := 0 } := by decide
theorem test_outMax_refused : ¬ Config.Valid { Config.t2 with outMax := 2 ^ 32 } := by decide
theorem test_zero_field_refused : Cmdw.wellFormed ⟨0x000001#24, 0x00#8⟩ = false := by decide
theorem test_zero_field_taken : Cmdw.wellFormed ⟨0x000000#24, 0x05#8⟩ = true := by decide

/-! ### Decoding of written-out words (R92; bytes on a byte bus, R71) -/

theorem test_decode_nop : decodeBytes [0x00#8, 0x00#8, 0x00#8, 0x00#8] = .ok .nop := by decide
theorem test_decode_count : decodeBytes [0x01#8, 0x00#8, 0x00#8, 0x00#8] = .ok .count := by decide
theorem test_decode_build : decodeBytes [0x02#8, 0x00#8, 0x00#8, 0x00#8] = .ok .build := by decide
theorem test_decode_gencodes : decodeBytes [0x03#8, 0x00#8, 0x00#8, 0x00#8] = .ok .gencodes := by decide
theorem test_decode_encode : decodeBytes [0x04#8, 0x00#8, 0x00#8, 0x00#8] = .ok .encode := by decide
theorem test_decode_decode : decodeBytes [0x05#8, 0x00#8, 0x00#8, 0x00#8] = .ok .decode := by decide
theorem test_decode_clrerr : decodeBytes [0x0E#8, 0x00#8, 0x00#8, 0x00#8] = .ok .clrerr := by decide
theorem test_decode_clear : decodeBytes [0x0F#8, 0x00#8, 0x00#8, 0x00#8] = .ok .clear := by decide
theorem test_decode_high_bit : decodeBytes [0x01#8, 0x00#8, 0x00#8, 0x80#8] = .error (.zeroField 0x80000001#32) := by
  decide
theorem test_decode_short : decodeBytes [0x01#8, 0x00#8] = .error (.notOneWord 2) := by decide
theorem test_table_word : decodeTableWord 32 0x0000000F = some .clear ∧ decodeTableWord 8 0x0E = some .clrerr ∧
    decodeTableWord 32 0x00000010 = none := by decide

/-- V101, V104, V106: illegal words, as the host sees them in ERR and ERRPOS. -/
theorem test_illegal_words :
    [0x00000006#32, 0x00000100#32, 0xFFFFFFFF#32].map
      (fun v => sees (fun s => (errWord s, s.err.pos, statusWord s)) (step ((blank small).issue v))) =
    [some (0x00000606#32, 6#32, 8#32), some (0x00000006#32, 0x100#32, 8#32),
      some (0x0000FF06#32, 0xFFFFFFFF#32, 8#32)] := by decide

/-! ### The commands, one step each -/

/-- V100. -/
theorem test_nop : after (step (State.reset.withFetchWord 32 0x00000000)) =
    some { State.reset with resp := okWrite } := by decide

/-- V1, V14: only the first TLEN symbols are counted; an old count does not survive (V15). -/
theorem test_count : sees (fun s => s.freq.map Prod.snd)
    (exec .count { loaded [0, 0, 1, 1, 1, 2, 2] (counted [9, 9, 9, 9] (blank small)) with tlen := 3#32 }) =
    some [2, 1, 0, 0] := by decide

/-- V17. -/
theorem test_count_too_long : sees (fun s => (errWord s, s.err.pos, s.freq.length, s.tlen))
    (exec .count { blank Config.t2 with tlen := 8#32 }) = some (0x00000115#32, 8#32, 0, 8#32) := by decide

/-- V1: the tree of "aabbbcc"; the root is left in the queue (R47). -/
theorem test_build : sees (fun s => (s.node, [s.nleaf, s.nnode, s.root, statusWord s], s.work.inq))
    (exec .build (counted [2, 3, 2, 0] (blank small))) =
    some (tree3.node, [3#32, 5#32, 4#32, 1#32], [4]) := by decide

/-- V33, V34. -/
theorem test_build_capacity :
    sees (fun s => (errWord s, s.err.pos, s.err.sym)) (exec .build (counted [1, 1, 1, 0] (blank Config.t2))) =
      some (0x00000225#32, 2#32, 2#32) ∧
    sees (fun s => (errWord s, s.err.pos, s.err.sym)) (exec .build (counted [7, 1, 0, 0] (blank Config.t2))) =
      some (0x00000235#32, 2#32, 0#32) := by decide

/-- V1: the codes of "aabbbcc". -/
theorem test_gencodes : sees (fun s => (s.code, statusWord s)) (exec .gencodes tree3) =
    some (codes3.code, 3#32) := by decide

/-- V28, V48: the single-symbol tree gives the code "0". -/
theorem test_gencodes_single : sees (fun s => (s.code, statusWord s)) (exec .gencodes tree1) =
    some (listed [[false]], 7#32) := by decide

/-- V68: "cab". -/
theorem test_encode : sees (fun s => (s.bits.map Prod.snd, s.blen)) (exec .encode (loaded [2, 0, 1] codes3)) =
    some ([true, true, true, false, false], 5#32) := by decide

/-- V69: "abd". -/
theorem test_encode_unknown :
    sees (fun s => (errWord s, s.err.pos, s.err.sym, s.blen, s.bits.map Prod.snd))
      (exec .encode (loaded [0, 1, 3] codes3)) =
    some (0x00000402#32, 2#32, 3#32, 0#32, [true, false, false]) := by decide

/-- V81: "bcb". -/
theorem test_decode : sees (fun s => (s.out.map Prod.snd, s.olen, s.cur))
    (exec .decode (streamed [false, true, true, false] tree3)) = some ([1, 2, 1], 3#32, 4#32) := by decide

/-- V86: a truncated stream. -/
theorem test_decode_truncated : sees (fun s => (errWord s, s.err.pos, s.cur, s.olen, s.out.map Prod.snd))
    (exec .decode (streamed [true, true, true] tree3)) = some (0x00000523#32, 3#32, 3#32, 0#32, [2]) := by decide

/-- V110, V111. -/
theorem test_clrerr : sees (fun s => (errWord s, statusWord s)) (exec .clrerr (failed codes3)) =
    some (0#32, 3#32) := by decide

/-- V112, V113. -/
theorem test_clear : sees (fun s => (errWord s, statusWord s, s.root, s.freq.map Prod.snd, s.text.map Prod.snd))
    (exec .clear (failed (loaded [2, 0, 1] codes3))) =
    some (0#32, 0#32, 0xFFFFFFFF#32, [0, 0, 0, 0], [2, 0, 1]) := by decide

/-- V107, V108: with an error latched an illegal word and COUNT are refused, and the error is kept. -/
theorem test_refused_while_latched :
    sees (fun s => (errWord s, s.resp)) (step ((failed tree3).issue 0x00000007#32)) =
      some (0x00000523#32, refusedWrite) ∧
    sees (fun s => (errWord s, s.resp)) (step ((failed tree3).issue 0x00000001#32)) =
      some (0x00000523#32, refusedWrite) := by decide

/-- V125, V126, V128: values that do and do not fit. -/
theorem test_data_write :
    sees State.resp (step { blank Config.t2 [.write 0x3C 32 8#32] with sel := 1#32, idx := 3#32 }) = some refusedWrite ∧
    sees State.resp (step { blank Config.t2 [.write 0x3C 32 7#32] with sel := 1#32, idx := 3#32 }) = some okWrite ∧
    sees State.resp (step { blank Config.t2 [.write 0x3C 32 2#32] with sel := 3#32 }) = some refusedWrite := by decide

/-- The host script of R102: `PUT` is three transactions. -/
theorem test_put : HostScript.put .text 2 3 =
    [.write 0x30 32 2#32, .write 0x34 32 2#32, .write 0x3C 32 3#32] := by decide

/-! ### Witnesses: a state and operands that meet all the hypotheses of a statement together, for each of its
clauses -/

/-- An illegal, a refused and a legal `CMD` write, one event each. -/
abbrev cmdWrite (v : Word) : List HostEvent := [.write 0x00 32 v]

theorem witness_OnlyTheEightWordsAreCommands : decodeWord 0x0000000F#32 = .ok .clear ∧ 0x0000000F#32 = encode .clear := by
  decide

theorem witness_StepRunsTheDecodedCommand :
    (blank small (cmdWrite 0x0000000E#32)).host = .write 0x00 32 0x0000000E#32 :: [] ∧
    decodeWord 0x0000000E#32 = .ok .clrerr := by decide

theorem witness_CommandWriteIsRefusedIllegalOrRun :
    -- refused: latched, neither of the three
    ((failed tree3).latched ∧ 0x00000010#32 ∉ [0x00000000#32, 0x0000000E#32, 0x0000000F#32] ∧
      (asked (cmdWrite 0x00000010#32) (failed tree3)).host = cmdWrite 0x00000010#32) ∧
    -- illegal: not latched, no command
    (¬ tree3.latched ∧ (∀ i ∈ [Instr.nop, .count, .build, .gencodes, .encode, .decode, .clrerr, .clear],
      0x00000010#32 ≠ encode i) ∧ (asked (cmdWrite 0x00000010#32) tree3).host = cmdWrite 0x00000010#32) ∧
    -- run: latched, one of the three
    ((failed tree3).latched ∧ 0x0000000F#32 = encode .clear ∧
      (after (step (asked (cmdWrite 0x0000000F#32) (failed tree3)))).isSome = true) := by decide

/-- For each clause a state with the error latched and the event it is asked. -/
theorem witness_LatchedErrorRefusesAllCommandWritesButThree :
    (asked (cmdWrite 0x00000001#32) (failed codes3)).latched ∧
    (asked (cmdWrite 0x00000001#32) (failed codes3)).host = .write 0x00 32 0x00000001#32 :: [] ∧
    (asked (cmdWrite 0x00000000#32) (failed codes3)).host = .write 0x00 32 0x00000000#32 :: [] ∧
    (asked (cmdWrite 0x0000000E#32) (failed codes3)).host = .write 0x00 32 0x0000000E#32 :: [] ∧
    (asked (cmdWrite 0x0000000F#32) (failed codes3)).host = .write 0x00 32 0x0000000F#32 :: [] ∧
    (asked [.read 0x14 32] (failed codes3)).host = .read 0x14 32 :: [] ∧
    (asked [.read 0x04 32] (failed codes3)).host = .read 0x04 32 :: [] ∧
    (asked [.write 0x14 32 3#32] (failed codes3)).host = .write 0x14 32 3#32 :: [] := ⟨by decide, by simp [asked]⟩

/-- What it asks: `CMD` writes of a working command and of an illegal word; accesses that do not concern the latch,
the last of each by its width; and the ends of the range that does. -/
theorem witness_latched_events :
    (∀ v ∈ [0x00000001#32, 0x00000010#32], v ∉ [0x00000000#32, 0x0000000E#32, 0x0000000F#32]) ∧
    (∀ a ∈ [(0x00, 32), (0x14, 32), (0x08, 16)], a.1 ∉ [0x04, 0x08, 0x0C, 0x10] ∨ a.2 ≠ 32) ∧
    0x04 ∈ [0x04, 0x08, 0x0C, 0x10] ∧ 0x10 ∈ [0x04, 0x08, 0x0C, 0x10] ∧
    (∀ a ∈ [(0x14, 32), (0x00, 16)], a.1 ≠ 0x00 ∨ a.2 ≠ 32) := by simp

theorem witness_LatchedErrorStaysUntilAcknowledged :
    ∃ t, (asked (cmdWrite 0x0000000E#32) (failed tree3)).latched ∧
      step (asked (cmdWrite 0x0000000E#32) (failed tree3)) = .next t := ⟨_, by decide, rfl⟩

theorem witness_RaisedErrorsAreTheRowsOfTheTable :
    ∃ t, exec .gencodes (blank small) = .next t ∧ t.err.code ≠ (blank small).err.code ∧ t.latched :=
  ⟨_, rfl, by decide⟩

theorem witness_MissingPrerequisiteIsNotReady :
    (blank small).err.code = 0#4 ∧ (blank small).treeValid = false ∧ (blank small).codesValid = false := by decide

theorem witness_ResetInputLeavesTheResetState :
    (asked [.reset] (failed codes3)).host = .reset :: [] ∧
    (asked [.cutByReset 0x00000002#32] (failed codes3)).host = .cutByReset 0x00000002#32 :: [] := by decide

theorem witness_RegistersReadTheirResetValues :
    sees State.resp (step (blank small [.read 0x00 32])) = some (okRead 0#32) ∧
    sees State.resp (step (blank small [.read 0x2C 32])) = some (okRead 0xFFFFFFFF#32) ∧
    sees State.resp (step (blank small [.read 0x38 32])) = some (okRead 0#32) := by decide

theorem witness_ResetStateIsWellFormed : small.Valid ∧ Config.t8.Valid := by decide

/-- For RegisterReadsReturnTheRegister and ReadsChangeNothingButTheAnswer. -/
theorem witness_host_reads :
    (asked [.read 0x04 32] codes3).host = .read 0x04 32 :: [] ∧
    (asked [.read 0x08 32] (failed codes3)).host = .read 0x08 32 :: [] ∧
    (asked [.read 0x00 32] codes3).host = .read 0x00 32 :: [] ∧
    (asked [.read 0x38 32] codes3).host = .read 0x38 32 :: [] ∧
    (asked [.read 0x41 8] codes3).host = .read 0x41 8 :: [] := by decide

/-- StatusReadsTheFlags at the single-symbol tree: bits 0 and 2. -/
theorem witness_StatusReadsTheFlags :
    sees State.resp (step (asked [.read 0x04 32] tree1)) = some (okRead 0x00000005#32) := by decide

/-- ErrReadsTheLatch (V84: `ERR` = 0x00000523). -/
theorem witness_ErrReadsTheLatch :
    sees State.resp (step (asked [.read 0x08 32] (failed tree3))) = some (okRead 0x00000523#32) := by decide

theorem witness_RegisterWritesStoreAnyValue : ∀ off ∈ [0x14, 0x18, 0x30, 0x34, 0x38],
    (asked [.write off 32 0xFFFFFFFF#32] codes3).host = .write off 32 0xFFFFFFFF#32 :: [] ∧
    sees State.resp (step (asked [.write off 32 0xFFFFFFFF#32] codes3)) = some okWrite := by decide

/-! RefusalsAreExactlyTheNineCases, at the boundaries of the rows of R62, a refused and a done access of each. -/

/-- Rows 1 and 2. -/
theorem witness_refused_access :
    RefusedRead tree3 0x40 32 ∧ RefusedRead tree3 0x3E 32 := by decide
theorem witness_refused_width : RefusedRead tree3 0x00 16 := by decide
theorem witness_done_access : ¬ RefusedRead tree3 0x38 32 := by decide

/-- Row 3. -/
theorem witness_refused_register : RefusedWrite tree3 0x2C 32 0#32 := by decide
theorem witness_done_register : ¬ RefusedWrite tree3 0x30 32 0#32 := by decide

/-- Row 4. -/
theorem witness_refused_sel :
    RefusedRead tree3 0x3C 32 ∧ RefusedRead { tree3 with sel := 8#32 } 0x3C 32 := by decide

/-- Row 5. -/
theorem witness_refused_idx :
    RefusedRead { tree3 with sel := 5#32, idx := 7#32, sub := 4#32 } 0x3C 32 ∧
    ¬ RefusedRead { tree3 with sel := 5#32, idx := 6#32, sub := 4#32 } 0x3C 32 := by decide

/-- Row 6. -/
theorem witness_refused_sub :
    RefusedRead { tree3 with sel := 7#32, sub := 3#32 } 0x3C 32 ∧
    ¬ RefusedRead { tree3 with sel := 7#32, sub := 2#32 } 0x3C 32 := by decide

/-- Row 7. -/
theorem witness_refused_space : RefusedWrite { tree3 with sel := 4#32 } 0x3C 32 0#32 := by decide

/-- Row 8. -/
theorem witness_refused_value : RefusedWrite { tree3 with sel := 1#32, idx := 3#32 } 0x3C 32 16#32 := by decide
theorem witness_done_value : ¬ RefusedWrite { tree3 with sel := 1#32, idx := 3#32 } 0x3C 32 15#32 := by decide

/-- Row 9. -/
theorem witness_refused_command : RefusedWrite (failed tree3) 0x00 32 1#32 := by decide
theorem witness_done_command : ¬ RefusedWrite (failed tree3) 0x00 32 0x0000000F#32 := by decide

/-- Elements at the upper end of each space. -/
theorem witness_DataReadReturnsTheElement :
    (let s := { counted [2, 3, 2, 0] (blank small [.read 0x3C 32]) with sel := 1#32, idx := 3#32 };
      s.host = [.read 0x3C 32] ∧ s.idx.toNat = 3 ∧ 3 < s.cfg.nsymv ∧ s.freq.read 3 = some 0) ∧
    (let s := { loaded [0, 1, 2, 3, 0, 1, 3] (blank small [.read 0x3C 32]) with sel := 2#32, idx := 6#32 };
      s.idx.toNat = 6 ∧ 6 < s.cfg.textMax ∧ s.text.read 6 = some 3) ∧
    (let s := { blank small [.read 0x3C 32] with sel := 3#32, idx := 11#32, bits := Memory.filled 12 true };
      s.idx.toNat = 11 ∧ 11 < s.cfg.bitsMax ∧ s.bits.read 11 = some true) ∧
    (let s := { blank small [.read 0x3C 32] with sel := 4#32, idx := 6#32, out := Memory.filled 7 2 };
      s.idx.toNat = 6 ∧ 6 < s.cfg.outMax ∧ s.out.read 6 = some 2) ∧
    (let s := asked [.read 0x3C 32] { tree3 with sel := 5#32, idx := 4#32, sub := 4#32 };
      s.idx.toNat = 4 ∧ 4 < s.cfg.nodeMax ∧ s.treeValid = true ∧ 4 < s.nnode.toNat ∧
      s.node.read 4 = some ⟨7, false, 0, 1#32, 3#32⟩ ∧ s.sub = 4#32) ∧
    (let s := asked [.read 0x3C 32] { codes3 with sel := 6#32, idx := 2#32 };
      s.idx.toNat = 2 ∧ 2 < s.cfg.nsymv ∧ s.codesValid = true ∧ s.code.read 2 = some [true, true]) ∧
    (let s := asked [.read 0x3C 32] { codes3 with sel := 6#32, idx := 3#32 };
      s.idx.toNat = 3 ∧ 3 < s.cfg.nsymv ∧ s.codesValid = true ∧ s.code.read 3 = none) ∧
    (let s := asked [.read 0x3C 32] { codes3 with sel := 7#32, idx := 2#32, sub := 1#32 };
      s.idx.toNat = 2 ∧ 2 < s.cfg.nsymv ∧ s.sub.toNat < s.cfg.codeMax ∧ s.codesValid = true ∧
      s.code.read 2 = some [true, true] ∧ [true, true][s.sub.toNat]? = some true) := by decide

theorem witness_UnwrittenElementsReadAsSomeValue :
    (let s := { blank small [.read 0x3C 32] with sel := 1#32, idx := 3#32 };
      s.host = [.read 0x3C 32] ∧ s.idx.toNat = 3 ∧ 3 < s.cfg.nsymv ∧ s.freq.read 3 = none) ∧
    (let s := { blank small [.read 0x3C 32] with sel := 2#32, idx := 6#32 };
      s.idx.toNat = 6 ∧ 6 < s.cfg.textMax ∧ s.text.read 6 = none) ∧
    (let s := { blank small [.read 0x3C 32] with sel := 3#32, idx := 11#32 };
      s.idx.toNat = 11 ∧ 11 < s.cfg.bitsMax ∧ s.bits.read 11 = none) ∧
    (let s := { blank small [.read 0x3C 32] with sel := 4#32, idx := 6#32 };
      s.idx.toNat = 6 ∧ 6 < s.cfg.outMax ∧ s.out.read 6 = none) := by decide

theorem witness_DataWriteStoresOneElement :
    (let s := { blank small [.write 0x3C 32 15#32] with sel := 1#32, idx := 3#32 };
      s.host = [.write 0x3C 32 15#32] ∧ s.idx.toNat = 3 ∧ 3 < s.cfg.nsymv ∧ (15#32).toNat ≤ s.cfg.wmax) ∧
    (let s := { blank small [.write 0x3C 32 3#32] with sel := 2#32, idx := 6#32 };
      s.idx.toNat = 6 ∧ 6 < s.cfg.textMax ∧ (3#32).toNat < 2 ^ s.cfg.symW) ∧
    (let s := { blank small [.write 0x3C 32 1#32] with sel := 3#32, idx := 11#32 };
      s.idx.toNat = 11 ∧ 11 < s.cfg.bitsMax ∧ (1#32).toNat ≤ 1) := by decide

theorem witness_IdleBlockKeepsItsState : codes3.host = [] := by decide

theorem witness_FlagsChangeOnlyByTheirCommands :
    ∃ t, step (asked (cmdWrite 0x0000000F#32) codes3) = .next t ∧ t.treeValid ≠ codes3.treeValid ∧
      t.codesValid ≠ codes3.codesValid := ⟨_, rfl, by decide⟩

/-- Each memory is changed by a step, and none of these steps is a reset. -/
theorem witness_MemoriesChangeOnlyByTheirWriters :
    (∃ t, step (asked (cmdWrite 0x00000001#32) (loaded [3] codes3)) = .next t ∧ t.freq ≠ codes3.freq) ∧
    (∃ t, step (asked [.write 0x3C 32 3#32] { codes3 with sel := 2#32 }) = .next t ∧ t.text ≠ codes3.text) ∧
    (∃ t, step (asked (cmdWrite 0x00000004#32) (loaded [2, 0, 1] codes3)) = .next t ∧ t.bits ≠ codes3.bits) ∧
    (∃ t, step (asked (cmdWrite 0x00000005#32) (streamed [false] codes3)) = .next t ∧ t.out ≠ codes3.out) ∧
    (∃ t, step (asked (cmdWrite 0x00000002#32) (counted [1, 1, 0, 0] codes3)) = .next t ∧ t.node ≠ codes3.node) ∧
    (∃ t, step (asked (cmdWrite 0x00000003#32) tree3) = .next t ∧ t.code ≠ tree3.code) := by
  refine ⟨?_, ?_, ?_, ?_, ?_, ?_⟩ <;> exact ⟨_, rfl, by decide⟩

/-- Each register is changed by a step, and none of these steps is a reset; the counts that BUILD reads and the
text that ENCODE reads may be unwritten elsewhere. -/
theorem witness_RegistersChangeOnlyByTheirWriters :
    (∃ t, step (asked (cmdWrite 0x00000005#32) (streamed [false] codes3)) = .next t ∧ t.olen ≠ codes3.olen ∧
      t.cur ≠ codes3.cur) ∧
    (∃ t, step (asked (cmdWrite 0x00000002#32) (counted [1, 1, 0, 0] codes3)) = .next t ∧
      t.nleaf ≠ codes3.nleaf ∧ t.nnode ≠ codes3.nnode ∧ t.root ≠ codes3.root) ∧
    (∃ t, step (asked (cmdWrite 0x00000004#32) (loaded [2, 0, 1] codes3)) = .next t ∧ t.blen ≠ codes3.blen) ∧
    (∃ t, step (asked (cmdWrite 0x0000000F#32) (loaded [2, 0, 1] codes3)) = .next t ∧
      t.tlen ≠ (loaded [2, 0, 1] codes3).tlen) ∧
    (∃ t, step (asked [.write 0x38 32 3#32] codes3) = .next t ∧ t.sub ≠ codes3.sub) ∧
    (∃ t, step (asked (cmdWrite 0x00000004#32) tree3) = .next t ∧ t.err ≠ tree3.err) := by
  refine ⟨?_, ?_, ?_, ?_, ?_, ?_⟩ <;> exact ⟨_, rfl, by decide⟩

/-- The tree and codes of V1 meet every invariant, and a step from there completes. -/
theorem witness_EveryStepKeepsTheInvariants :
    small.Valid ∧ MemoryForm codes3 ∧ ElementBounds codes3 ∧ RegisterForm codes3 ∧ TreeInv codes3 ∧ CodeInv codes3 ∧
    (after (step (asked (cmdWrite 0x00000003#32) codes3))).isSome = true :=
  ⟨by decide, by decide, by decide, by decide, tree3_inv, codes3_inv, by decide⟩

theorem witness_EveryStepCompletes : codes3.treeValid = true ∧ TreeInv codes3 ∧ TreeInv tree1 :=
  ⟨rfl, tree3_inv, tree1_inv⟩

theorem witness_CountCountsEverySymbol :
    let s := loaded [0, 0, 1, 1, 1, 2, 3] (blank small)
    s.err.code = 0#4 ∧ TextIs s [0, 0, 1, 1, 1, 2, 3] ∧ [0, 0, 1, 1, 1, 2, 3].length ≤ s.cfg.textMax ∧
    ∀ x ∈ [0, 0, 1, 1, 1, 2, 3], x < s.cfg.nsymv := by decide

theorem witness_CountsAddUpToTheTextLength :
    let s := { loaded [3] (blank small) with tlen := 7#32 }
    s.err.code = 0#4 ∧ s.tlen.toNat ≤ s.cfg.textMax ∧ ∀ e ∈ s.text, e.2 < s.cfg.nsymv := by decide

theorem witness_CountOfTooLongTextIsCapacityExceeded :
    let s := { blank small with tlen := 8#32 }
    s.err.code = 0#4 ∧ s.cfg.textMax < s.tlen.toNat := by decide

/-- Four symbols, the most `small` takes, whose counts add up to WMAX; and one symbol. -/
theorem witness_BuildCompletesWithATree :
    (let s := counted [2, 3, 2, 8] (blank small);
      s.err.code = 0#4 ∧ FreqDefined s ∧ (present s).length = 4 ∧ 4 ≤ s.cfg.maxLeaf ∧ freqSum s ≤ s.cfg.wmax) ∧
    (let s := counted [0, 0, 0, 15] (blank small);
      FreqDefined s ∧ (present s).length = 1 ∧ freqSum s ≤ s.cfg.wmax) := by decide

theorem witness_EveryMergeTakesTheTwoLeast :
    ∃ t, (counted [2, 3, 2, 0] (blank small)).err.code = 0#4 ∧ small.Valid ∧
      exec .build (counted [2, 3, 2, 0] (blank small)) = .next t ∧ t.treeValid = true ∧ leaves t ≤ 3 ∧
      4 < t.nnode.toNat ∧ queuedAt t (leaves t) 3 0 := ⟨_, by decide, by decide, rfl, by decide⟩

theorem witness_ExtractMinTakesTheLeastKey :
    ({ tree3 with work := { Work.reset with inq := [0, 1, 2], qcnt := 3 } } : State).work.inq ≠ [] := by decide

theorem witness_BuiltTreeConservesWeight :
    ∃ t, small.Valid ∧ FreqDefined (counted [2, 3, 2, 0] (blank small)) ∧
      exec .build (counted [2, 3, 2, 0] (blank small)) = .next t ∧ t.treeValid = true ∧ t.nleaf.toNat ≤ 3 ∧
      3 < t.nnode.toNat := ⟨_, by decide, by decide, rfl, by decide⟩

/-- Equal tables, one in a fresh block and one in a block that has a tree. -/
theorem witness_BuildIsAFunctionOfTheTable :
    ∃ t t', (counted [2, 3, 2, 0] codes3).err.code = 0#4 ∧
      (counted [2, 3, 2, 0] (blank small)).cfg = (counted [2, 3, 2, 0] codes3).cfg ∧
      FreqDefined (counted [2, 3, 2, 0] (blank small)) ∧
      exec .build (counted [2, 3, 2, 0] (blank small)) = .next t ∧
      exec .build (counted [2, 3, 2, 0] codes3) = .next t' := ⟨_, _, by decide, by decide, by decide, rfl, rfl⟩

theorem witness_BuildOfEmptyTableIsEmptyAlphabet :
    let s := counted [0, 0, 0, 0] codes3
    s.err.code = 0#4 ∧ ∀ x, x < s.cfg.nsymv → s.freq.read x = some 0 := by decide

theorem witness_BuildBeyondCapacityIsCapacityExceeded :
    (let s := counted [1, 0, 1, 1] (blank Config.t2);
      s.err.code = 0#4 ∧ FreqDefined s ∧ (present s)[s.cfg.maxLeaf]? = some 3) ∧
    (let s := counted [7, 1, 0, 0] (blank Config.t2);
      s.err.code = 0#4 ∧ FreqDefined s ∧ 1 ≤ (present s).length ∧ (present s).length ≤ s.cfg.maxLeaf ∧
      s.cfg.wmax < freqSum s) := by decide

theorem witness_FailedBuildLeavesNoTree :
    ∃ t, (counted [0, 0, 0, 0] codes3).err.code = 0#4 ∧ exec .build (counted [0, 0, 0, 0] codes3) = .next t ∧
      t.latched := ⟨_, by decide, rfl, by decide⟩

theorem witness_CodesAreTheRootPaths :
    tree3.err.code = 0#4 ∧ tree3.treeValid = true ∧ TreeInv tree3 ∧ 2 ≤ leaves tree3 ∧
    (nodeAt tree3 2).sym = 2 ∧ ∀ l, l < leaves tree3 → (nodeAt tree3 l).sym ≠ 3 :=
  ⟨rfl, rfl, tree3_inv, by decide⟩

theorem witness_SingleSymbolGetsTheCodeZero :
    tree1.err.code = 0#4 ∧ tree1.treeValid = true ∧ tree1.nleaf = 1#32 ∧
    tree1.node.read tree1.root.toNat = some ⟨4, true, 0, nilIndex, nilIndex⟩ := by decide

theorem witness_CodesArePrefixFree :
    TreeInv codes3 ∧ CodeInv codes3 ∧ codes3.codesValid = true ∧ (0 : Nat) ≠ 2 ∧
    codes3.code.read 0 = some [true, false] ∧ codes3.code.read 2 = some [true, true] :=
  ⟨tree3_inv, codes3_inv, by decide⟩

/-- V1: the whole text of seven symbols, the most TEXT takes. -/
theorem witness_EncodeConcatenatesTheCodes :
    let s := loaded [0, 0, 1, 1, 1, 2, 2] codes3
    s.err.code = 0#4 ∧ s.codesValid = true ∧ TextIs s [0, 0, 1, 1, 1, 2, 2] ∧
    [0, 0, 1, 1, 1, 2, 2].length ≤ s.cfg.textMax ∧
    [0, 0, 1, 1, 1, 2, 2].map s.code.read =
      [[true, false], [true, false], [false], [false], [false], [true, true], [true, true]].map some ∧
    11 ≤ s.cfg.bitsMax := by decide

theorem witness_FirstSymbolWithoutCodeIsUnknown :
    let s := loaded [0, 1, 3] codes3
    s.err.code = 0#4 ∧ s.codesValid = true ∧ Holds s.text ([0, 1] ++ [3]) ∧ [0, 1].length < s.tlen.toNat ∧
    s.tlen.toNat ≤ s.cfg.textMax ∧ [0, 1].map s.code.read = [[true, false], [false]].map some ∧
    [[true, false], [false]].flatten.length ≤ s.cfg.bitsMax ∧ s.code.read 3 = none := by decide

/-- As V72: one bit is left of BITS and the code has two. -/
theorem witness_FirstCodeThatDoesNotFitIsCapacityExceeded :
    let s := { loaded [0, 1, 2] codes3 with cfg := { small with bitsMax := 4 } }
    s.err.code = 0#4 ∧ s.codesValid = true ∧ Holds s.text ([0, 1] ++ [2]) ∧ [0, 1].length < s.tlen.toNat ∧
    s.tlen.toNat ≤ s.cfg.textMax ∧ [0, 1].map s.code.read = [[true, false], [false]].map some ∧
    [[true, false], [false]].flatten.length ≤ s.cfg.bitsMax ∧ s.code.read 2 = some [true, true] ∧
    s.cfg.bitsMax < [[true, false], [false]].flatten.length + [true, true].length := by decide

theorem witness_LengthAboveCapacityIsCapacityExceeded :
    (let s := { codes3 with tlen := 8#32 };
      s.err.code = 0#4 ∧ s.codesValid = true ∧ s.cfg.textMax < s.tlen.toNat) ∧
    (let s := { tree3 with blen := 13#32 };
      s.err.code = 0#4 ∧ s.treeValid = true ∧ s.cfg.bitsMax < s.blen.toNat) := by decide

/-- V81. -/
theorem witness_DecodeOfWholePathsGivesTheSymbols :
    let s := streamed [false, true, true, false] tree3
    s.err.code = 0#4 ∧ s.treeValid = true ∧ TreeInv s ∧ 2 ≤ leaves s ∧ (∀ l ∈ [1, 2, 1], l < leaves s) ∧
    [[false], [true, true], [false]].map (follow s.node s.root) = [1, 2, 1].map (fun l => some (wordOf l)) ∧
    BitsAre s [[false], [true, true], [false]].flatten ∧
    [[false], [true, true], [false]].flatten.length ≤ s.cfg.bitsMax ∧ [1, 2, 1].length ≤ s.cfg.outMax :=
  ⟨rfl, rfl, tree3_inv, by decide⟩

/-- V86. -/
theorem witness_TruncatedStreamIsMalformed :
    let s := streamed [true, true, true] tree3
    s.err.code = 0#4 ∧ s.treeValid = true ∧ TreeInv s ∧ 2 ≤ leaves s ∧ (∀ l ∈ [2], l < leaves s) ∧
    [[true, true]].map (follow s.node s.root) = [2].map (fun l => some (wordOf l)) ∧ [true] ≠ [] ∧
    follow s.node s.root [true] = some 3#32 ∧ (nodeAt s (3#32 : Word).toNat).leaf = false ∧
    BitsAre s ([[true, true]].flatten ++ [true]) ∧ ([[true, true]].flatten ++ [true]).length ≤ s.cfg.bitsMax ∧
    [2].length ≤ s.cfg.outMax :=
  ⟨rfl, rfl, tree3_inv, by decide⟩

/-- V88, at the capacity of OUT. -/
theorem witness_SingleSymbolDecodesOneSymbolPerZero :
    let s := streamed (List.replicate 7 false) tree1
    s.err.code = 0#4 ∧ s.treeValid = true ∧ s.nleaf = 1#32 ∧
    s.node.read s.root.toNat = some ⟨4, true, 0, nilIndex, nilIndex⟩ ∧ BitsAre s (List.replicate 7 false) ∧
    7 ≤ s.cfg.bitsMax ∧ 7 ≤ s.cfg.outMax := by decide

/-- V89. -/
theorem witness_OneBitUnderSingleSymbolTreeIsMalformed :
    let s := streamed [false, false, true, false] tree1
    s.err.code = 0#4 ∧ s.treeValid = true ∧ s.nleaf = 1#32 ∧
    s.node.read s.root.toNat = some ⟨4, true, 0, nilIndex, nilIndex⟩ ∧
    Holds s.bits (List.replicate 2 false ++ [true]) ∧ 2 < s.blen.toNat ∧ s.blen.toNat ≤ s.cfg.bitsMax ∧
    2 ≤ s.cfg.outMax := by decide

/-- As V96, with OUT of one element; and under the single-symbol tree. -/
theorem witness_SymbolBeyondOutIsCapacityExceeded :
    (let s := streamed [false, true] tree2;
      s.err.code = 0#4 ∧ s.treeValid = true ∧ TreeInv s ∧ 2 ≤ leaves s ∧ (∀ k ∈ [0], k < leaves s) ∧ 1 < leaves s ∧
      [[false]].map (follow s.node s.root) = [0].map (fun k => some (wordOf k)) ∧
      follow s.node s.root [true] = some (wordOf 1) ∧ Holds s.bits ([[false]].flatten ++ [true]) ∧
      ([[false]].flatten ++ [true]).length ≤ s.blen.toNat ∧ s.blen.toNat ≤ s.cfg.bitsMax ∧
      [0].length = s.cfg.outMax) ∧
    (let s := streamed (List.replicate 8 false) tree1;
      s.err.code = 0#4 ∧ s.treeValid = true ∧ s.nleaf = 1#32 ∧
      s.node.read s.root.toNat = some ⟨4, true, 0, nilIndex, nilIndex⟩ ∧
      Holds s.bits (List.replicate (s.cfg.outMax + 1) false) ∧ s.cfg.outMax < s.blen.toNat ∧
      s.blen.toNat ≤ s.cfg.bitsMax) :=
  ⟨⟨rfl, rfl, tree2_inv, by decide⟩, by decide⟩

/-- V1, and the premise of its second half: the eleven digits of the codes of "aabbbcc" fit into BITS. -/
theorem witness_RoundTripRestoresTheText :
    (let s := loaded [0, 0, 1, 1, 1, 2, 2] (blank small);
      s.cfg.Valid ∧ s.err.code = 0#4 ∧ TextIs s [0, 0, 1, 1, 1, 2, 2] ∧ [0, 0, 1, 1, 1, 2, 2].length ≤ s.cfg.textMax ∧
      [0, 0, 1, 1, 1, 2, 2].length ≤ s.cfg.outMax ∧ (∀ x ∈ [0, 0, 1, 1, 1, 2, 2], x < s.cfg.nsymv) ∧
      [0, 0, 1, 1, 1, 2, 2].dedup.length ≤ s.cfg.maxLeaf) ∧
    ([0, 0, 1, 1, 1, 2, 2].map (fun x => ((codes3.code.read x).getD []).length)).sum ≤ small.bitsMax := by decide

end Sys2Proof.Tests
end

section
/-! PROOF. O26: every step keeps every element at an index of its memory and within its width. One invariant for the loop
of each command; `exec` and `step` are then a case split. -/

namespace Sys2Proof.Machine

/-! ### Laws of a memory all of whose entries have a property -/

section Entries
variable {α : Type} {p : Nat × α → Prop} {m : Memory α}

/-- A write keeps a property of the entries that the new entry has. -/
theorem Memory.forall_write {k : Nat} {v : α} (h : ∀ e ∈ m, p e) (hv : p (k, v)) :
    ∀ e ∈ m.write k v, p e := by
  intro e he
  rcases Memory.mem_write he with rfl | he
  · exact hv
  · exact h e he

/-- Every entry of a cleared memory stands below its size and holds the value cleared to. -/
theorem Memory.forall_filled {n : Nat} {v : α} (h : ∀ i, i < n → p (i, v)) :
    ∀ e ∈ Memory.filled n v, p e := by
  intro e he
  obtain ⟨i, hi, rfl⟩ := List.mem_map.1 he
  exact h i (List.mem_range.1 hi)

end Entries

/-! ### Laws of the reads: every value read fits its width, written or free (R40, R80) -/

theorem nsymv_pos (c : Config) : 0 < c.nsymv := Nat.two_pow_pos _

theorem freeSymbol_lt (c : Config) (d : Word) : freeSymbol c d < c.nsymv := Nat.mod_lt _ (nsymv_pos c)

theorem freeCount_le (c : Config) (d : Word) : freeCount c d ≤ c.wmax :=
  Nat.le_sub_one_of_lt (Nat.mod_lt _ (Nat.two_pow_pos _))

/-- A property of the entries and of the free values is one of the value read. -/
theorem readElem_forall {α : Type} {p : α → Prop} {m : Memory α} {free : Word → α} {k : Nat} {s : State}
    (h : ∀ e ∈ m, p e.2) (hfree : ∀ d, p (free d)) : p (readElem m free k s).1 := by
  rcases readElem_value m free k s with hr | ⟨d, hd⟩
  · exact h _ (Memory.mem_of_read hr)
  · exact hd ▸ hfree d

theorem readText_lt {k : Nat} {s : State} (h : ∀ e ∈ s.text, e.1 < s.cfg.textMax ∧ e.2 < s.cfg.nsymv) :
    (readText k s).1 < s.cfg.nsymv :=
  readElem_forall (p := (· < s.cfg.nsymv)) (fun e he => (h e he).2) (freeSymbol_lt s.cfg)

theorem readFreq_le {k : Nat} {s : State} (h : ∀ e ∈ s.freq, e.1 < s.cfg.nsymv ∧ e.2 ≤ s.cfg.wmax) :
    (readFreq k s).1 ≤ s.cfg.wmax :=
  readElem_forall (p := (· ≤ s.cfg.wmax)) (fun e he => (h e he).2) (freeCount_le s.cfg)

/-- Every entry of NODE stands in the arena and fits the widths of its fields (R45). -/
def ArenaBounds (c : Config) (m : Memory Node) : Prop :=
  ∀ e ∈ m, e.1 < c.nodeMax ∧ e.2.w ≤ c.wmax ∧ e.2.sym < c.nsymv

theorem readNode_sym_lt {k : Nat} {s : State} (h : ArenaBounds s.cfg s.node) :
    (readNode k s).1.sym < s.cfg.nsymv := by
  rcases readNode_value k s with hr | hr
  · obtain ⟨-, -, hsym⟩ := h _ (Memory.mem_of_read hr)
    exact hsym
  · rw [hr]; exact freeSymbol_lt _ _

/-! ### COUNT: after `k` turns no count is above `k` -/

/-- FREQ after `k` turns of the counting loop: every count has been written, none is above `k`. -/
structure Counted (c : Config) (k : Nat) (s : State) : Prop where
  cfg : s.cfg = c
  text : ∀ e ∈ s.text, e.1 < c.textMax ∧ e.2 < c.nsymv
  freq : ∀ e ∈ s.freq, e.1 < c.nsymv ∧ e.2 ≤ k
  written : ∀ x, x < c.nsymv → ∃ v, s.freq.read x = some v

theorem freshTable_counted {s : State} (h : ElementBounds s) : Counted s.cfg 0 (freshTable s) where
  cfg := rfl
  text := by obtain ⟨-, htext, -⟩ := h; exact htext
  freq := Memory.forall_filled fun i hi => ⟨hi, le_rfl⟩
  written x hx := ⟨0, by simp [freshTable, Memory.read_filled, hx]⟩

/-- What a turn of the counting loop writes, where the count of the symbol read has been written. -/
theorem countTurn_freq {s : State} {v : Nat} (hv : s.freq.read (readText s.work.tpos s).1 = some v) :
    (countTurn s).freq = s.freq.write (readText s.work.tpos s).1 (v + 1) := by
  have hf : readFreq (readText s.work.tpos s).1 (readText s.work.tpos s).2 = (v, (readText s.work.tpos s).2) :=
    readElem_of_read (by simpa using hv)
  simp [countTurn, hf]

theorem countTurn_counted {c : Config} (k : Nat) (s : State) (h : Counted c k s) :
    Counted c (k + 1) (countTurn s) := by
  obtain ⟨rfl, htext, hfreq, hwritten⟩ := h
  have hx : (readText s.work.tpos s).1 < s.cfg.nsymv := readText_lt htext
  obtain ⟨v, hv⟩ := hwritten _ hx
  obtain ⟨-, hvk⟩ := hfreq _ (Memory.mem_of_read hv)
  refine ⟨by rw [countTurn_frame], by rw [countTurn_frame]; exact htext, ?_, ?_⟩
  · rw [countTurn_freq hv]
    exact Memory.forall_write (fun e he => ⟨(hfreq e he).1, Nat.le_succ_of_le (hfreq e he).2⟩)
      ⟨hx, Nat.succ_le_succ hvk⟩
  · intro y hy
    rw [countTurn_freq hv, Memory.read_write]
    split
    · exact ⟨_, rfl⟩
    · exact hwritten y hy

/-- COUNT keeps the bounds: it makes at most `TEXT_MAX` turns, and `TEXT_MAX` is at most `WMAX` (R5, R114). -/
theorem countEngine_keeps_bounds {s : State} (hc : s.cfg.Valid) (h : ElementBounds s) :
    ElementBounds (countEngine s) := by
  have hfreq : ∀ e ∈ (countEngine s).freq, e.1 < s.cfg.nsymv ∧ e.2 ≤ s.cfg.wmax := by
    unfold countEngine
    split
    · exact h.1
    · next hlen =>
      obtain ⟨-, -, hf, -⟩ := iterate_induct countTurn_counted s.tlen.toNat 0 _ (freshTable_counted h)
      obtain ⟨-, -, -, ⟨-, hmax, -⟩, -⟩ := hc
      exact fun e he => ⟨(hf e he).1, (hf e he).2.trans (by omega)⟩
  obtain ⟨-, htext, hbits, hout, hnode, hcode⟩ := h
  rw [countEngine_frame s]
  exact ⟨hfreq, htext, hbits, hout, hnode, hcode⟩

/-! ### BUILD: the queue holds the weight of the leaves -/

/-- The induction of a bounded loop that may use that turn `k` is one of the `n` (cf. `Pass.loop_count`). -/
theorem Pass.loop_count_lt {turn : State → Pass} {Q : State → Prop} (n : Nat) {P : Nat → State → Prop}
    (keep : ∀ k, k < n → ∀ s t, P k s → turn s = .running t → P (k + 1) t)
    (stop : ∀ k, k < n → ∀ s t, P k s → turn s = .raised t → Q t) (s : State) (h : P 0 s) :
    (∀ t, Pass.loop turn n s = .running t → P n t) ∧ (∀ t, Pass.loop turn n s = .raised t → Q t) := by
  induction n generalizing P s with
  | zero => simpa [Pass.loop] using h
  | succ n ih =>
    cases hs : turn s with
    | running u =>
      simp only [Pass.loop, hs]
      exact ih (P := fun k => P (k + 1)) (fun k hk => keep (k + 1) (by omega))
        (fun k hk => stop (k + 1) (by omega)) u (keep 0 (by omega) s u h hs)
    | raised u => simpa [Pass.loop, hs] using stop 0 (by omega) s u h hs

@[simp] theorem weightOf_write_same (m : Memory Node) (k : Nat) (nd : Node) :
    weightOf (m.write k nd) k = nd.w := by
  simp [weightOf]

theorem weightOf_write_other {m : Memory Node} {i k : Nat} (nd : Node) (h : i ≠ k) :
    weightOf (m.write k nd) i = weightOf m i := by
  simp [weightOf, Memory.read_write_other m nd h]

/-- The sum of the weights in the queue. -/
def queueWeight (s : State) : Nat := (s.work.inq.map (weightOf s.node)).sum

/-- The queue and its two registers agree: every queued node has been made (its index is below `NEXT`) and
`QCNT` is their number (R47). -/
def QueueForm (s : State) : Prop := (∀ i ∈ s.work.inq, i < s.work.next) ∧ s.work.qcnt = s.work.inq.length

theorem appendNode_keeps_queueForm (nd : Node) {s : State} (h : QueueForm s) : QueueForm (appendNode nd s) := by
  obtain ⟨hlt, hcnt⟩ := h
  refine ⟨fun i hi => ?_, by simp [hcnt]⟩
  rcases List.mem_append.1 hi with hi | hi
  · exact Nat.lt_succ_of_lt (hlt i hi)
  · exact List.mem_singleton.1 hi ▸ Nat.lt_succ_self _

/-- A new node adds its own weight: it stands above every queued one, whose weights it leaves. -/
theorem queueWeight_appendNode (nd : Node) {s : State} (h : QueueForm s) :
    queueWeight (appendNode nd s) = queueWeight s + nd.w := by
  have hold : s.work.inq.map (weightOf (s.node.write s.work.next nd)) = s.work.inq.map (weightOf s.node) :=
    List.map_congr_left fun i hi => weightOf_write_other nd (h.1 i hi).ne
  simp [queueWeight, hold]

theorem extractMin_mem {s : State} (h : s.work.inq ≠ []) : (extractMin s).1 ∈ s.work.inq :=
  (queueMin_spec s.node h).1

/-- Taking the least node out keeps the form of the queue and takes its weight out of the sum (R125). -/
theorem extractMin_queue {s : State} (h : QueueForm s) (hne : s.work.inq ≠ []) :
    QueueForm (extractMin s).2 ∧ (extractMin s).2.work.qcnt + 1 = s.work.qcnt ∧
    queueWeight s = weightOf s.node (extractMin s).1 + queueWeight (extractMin s).2 := by
  have hmem := extractMin_mem hne
  obtain ⟨hlt, hcnt⟩ := h
  have hlen := List.length_erase_of_mem hmem
  have hpos := List.length_pos_of_mem hmem
  refine ⟨⟨fun i hi => hlt i (List.mem_of_mem_erase hi), ?_⟩, ?_, ?_⟩
  · simp only [extractMin, dequeue_work] at hlen ⊢; omega
  · simp only [extractMin, dequeue_work]; omega
  · exact ((List.perm_cons_erase hmem).map _).sum_eq

/-- BUILD after `k` turns of the seed scan: the queue holds the leaves made so far, at most `MAXLEAF` of them,
and `TOTAL` is their weight (R122). -/
structure Seeded (c : Config) (k : Nat) (s : State) : Prop where
  cfg : s.cfg = c
  freq : ∀ e ∈ s.freq, e.1 < c.nsymv ∧ e.2 ≤ c.wmax
  node : ArenaBounds c s.node
  scan : s.work.scan = k
  leaves : s.work.next ≤ c.maxLeaf
  queue : QueueForm s
  count : s.work.qcnt = s.work.next
  weight : queueWeight s = s.work.total

theorem startBuild_seeded {s : State} (h : ElementBounds s) : Seeded s.cfg 0 (startBuild s) := by
  obtain ⟨hfreq, -, -, -, hnode, -⟩ := h
  exact ⟨rfl, hfreq, hnode, rfl, Nat.zero_le _, ⟨by simp [startBuild], rfl⟩, rfl, rfl⟩

theorem Seeded.after_readFreq {c : Config} {k : Nat} {s : State} (h : Seeded c k s) (i : Nat) :
    Seeded c k (readFreq i s).2 := by
  obtain ⟨hcfg, hfreq, hnode, hscan, hle, hqueue, hcount, hweight⟩ := h
  rw [show (readFreq i s).2 = _ from readElem_state _ _ _ _]
  exact ⟨hcfg, hfreq, hnode, hscan, hle, hqueue, hcount, hweight⟩

theorem Seeded.after_advanceScan {c : Config} {k : Nat} {s : State} (h : Seeded c k s) :
    Seeded c (k + 1) (advanceScan s) := by
  obtain ⟨hcfg, hfreq, hnode, rfl, hle, hqueue, hcount, hweight⟩ := h
  exact ⟨hcfg, hfreq, hnode, rfl, hle, hqueue, hcount, hweight⟩

/-- A leaf for the symbol in `SCAN` fits while there is a symbol to scan and room for a leaf (R122). -/
theorem Seeded.after_seedLeaf {c : Config} {k f : Nat} {s : State} (h : Seeded c k s) (hk : k < c.nsymv)
    (hf : f ≤ c.wmax) (hroom : s.work.next ≠ c.maxLeaf) : Seeded c k (seedLeaf f s) := by
  obtain ⟨hcfg, hfreq, hnode, rfl, hle, hqueue, hcount, hweight⟩ := h
  have hidx : s.work.next < c.nodeMax := by simp only [Config.nodeMax]; omega
  have hsum := queueWeight_appendNode (leafNode f s.work.scan) hqueue
  refine ⟨hcfg, hfreq, Memory.forall_write hnode ⟨hidx, hf, hk⟩, rfl, by simp [seedLeaf]; omega,
    appendNode_keeps_queueForm _ hqueue, by simp [seedLeaf, hcount], ?_⟩
  exact hsum.trans (by simp [seedLeaf, hweight, leafNode])

/-- The seed scan makes a leaf only for a symbol value, and only while there is room (R122, R124);
when it raises, the leaves made so far stand in NODE. -/
theorem seedLoop_seeded {s : State} (h : ElementBounds s) :
    (∀ t, Pass.loop seedTurn s.cfg.nsymv (startBuild s) = .running t → Seeded s.cfg s.cfg.nsymv t) ∧
    (∀ t, Pass.loop seedTurn s.cfg.nsymv (startBuild s) = .raised t → ArenaBounds s.cfg t.node) := by
  refine Pass.loop_count_lt _ (fun k hk u t hu ht => ?_) (fun k hk u t hu ht => ?_) _ (startBuild_seeded h)
  · have hf : (readFreq u.work.scan u).1 ≤ s.cfg.wmax := by
      rw [← hu.cfg]; exact readFreq_le (by rw [hu.cfg]; exact hu.freq)
    rcases seedTurn_cases u with ⟨-, h⟩ | ⟨-, -, h⟩ | ⟨-, hne, h⟩ <;> rw [h] at ht <;> cases ht
    · exact (hu.after_readFreq _).after_advanceScan
    · rw [hu.cfg] at hne
      exact ((hu.after_readFreq _).after_seedLeaf hk hf (by simpa using hne)).after_advanceScan
  · rcases seedTurn_cases u with ⟨-, h⟩ | ⟨-, -, h⟩ | ⟨-, -, h⟩ <;> rw [h] at ht <;> cases ht
    exact (hu.after_readFreq _).node

/-- BUILD during the merges: the queue holds the weight of all leaves, at most `WMAX`, and the arena has room for
the nodes still to be made, one fewer than there are queued (R124, R127, R133). -/
structure Merging (c : Config) (s : State) : Prop where
  node : ArenaBounds c s.node
  queue : QueueForm s
  weight : queueWeight s ≤ c.wmax
  room : s.work.next + s.work.qcnt ≤ 2 * c.maxLeaf

theorem Seeded.merging {c : Config} {k : Nat} {s : State} (h : Seeded c k s) (ht : s.work.total ≤ c.wmax) :
    Merging c s where
  node := h.node
  queue := h.queue
  weight := h.weight.trans_le ht
  room := by have hle := h.leaves; have hcount := h.count; omega

/-- The registers `QA` and `QB` are written between the extraction and the new node. -/
theorem mergeTurn_eq (s : State) :
    mergeTurn s = appendNode (mergeNode s.node (extractMin s).1 (extractMin (extractMin s).2).1)
      { (extractMin (extractMin s).2).2 with
        work := { (extractMin (extractMin s).2).2.work with
          qa := (extractMin s).1, qb := (extractMin (extractMin s).2).1 } } := rfl

/-- A merge replaces two queued nodes by one of their joint weight, so the sum stays (R127). -/
theorem mergeTurn_merging {c : Config} {s : State} (h : Merging c s) (hq : 1 < s.work.qcnt) :
    Merging c (mergeTurn s) := by
  obtain ⟨hnode, hqueue, hweight, hroom⟩ := h
  have ne_nil : ∀ {u : State}, QueueForm u → 0 < u.work.qcnt → u.work.inq ≠ [] := fun hu hpos =>
    List.ne_nil_of_length_pos (hu.2 ▸ hpos)
  obtain ⟨hqueue1, hcnt1, hsum1⟩ := extractMin_queue hqueue (ne_nil hqueue (by omega))
  obtain ⟨hqueue2, hcnt2, hsum2⟩ := extractMin_queue hqueue1 (ne_nil hqueue1 (by omega))
  have hnode1 : (extractMin s).2.node = s.node := rfl
  have hnext2 : (extractMin (extractMin s).2).2.work.next = s.work.next := rfl
  rw [hnode1] at hsum2
  set a := (extractMin s).1
  set b := (extractMin (extractMin s).2).1
  have hidx : s.work.next < c.nodeMax := by simp only [Config.nodeMax]; omega
  have hw : weightOf s.node a + weightOf s.node b ≤ c.wmax := by omega
  rw [mergeTurn_eq]
  refine ⟨Memory.forall_write hnode ⟨hidx, hw, nsymv_pos c⟩, appendNode_keeps_queueForm _ hqueue2, ?_, ?_⟩
  · refine (queueWeight_appendNode _ ?_).trans_le ?_
    · exact hqueue2
    · show queueWeight (extractMin (extractMin s).2).2 + (weightOf s.node a + weightOf s.node b) ≤ c.wmax
      omega
  · show (extractMin (extractMin s).2).2.work.next + 1 + ((extractMin (extractMin s).2).2.work.qcnt + 1) ≤ _
    omega

theorem mergeLoop_merging {c : Config} (n : Nat) {s : State} (h : Merging c s) : Merging c (mergeLoop n s) := by
  induction n generalizing s with
  | zero => exact h
  | succ n ih =>
    simp only [mergeLoop]
    split
    · next hq => exact ih (mergeTurn_merging h hq)
    · exact h

theorem buildEngine_arenaBounds {s : State} (h : ElementBounds s) : ArenaBounds s.cfg (buildEngine s).node := by
  obtain ⟨hrun, hraise⟩ := seedLoop_seeded h
  unfold buildEngine
  split
  · next t ht => exact hraise t ht
  · next t ht =>
    have hseeded := hrun t ht
    unfold afterSeed
    split
    · exact hseeded.node
    · split
      · exact hseeded.node
      · next htotal =>
        rw [hseeded.cfg] at htotal
        exact (mergeLoop_merging _ (hseeded.merging (by omega))).node

/-- BUILD keeps the bounds. -/
theorem buildEngine_keeps_bounds {s : State} (h : ElementBounds s) : ElementBounds (buildEngine s) := by
  have hnode := buildEngine_arenaBounds h
  obtain ⟨hfreq, htext, hbits, hout, -, hcode⟩ := h
  rcases buildEngine_cases s with ⟨hb, -⟩ | ⟨-, hb, -⟩ <;> rw [hb] <;>
    exact ⟨hfreq, htext, hbits, hout, hnode, hcode⟩

/-! ### GENCODES: the path walked and the room left are together at most `CODE_MAX` -/

/-- Every entry of CODE is that of a symbol and within `CODE_MAX` (R46). -/
def CodeBounds (c : Config) (m : Memory Code) : Prop := ∀ e ∈ m, e.1 < c.nsymv ∧ e.2.length ≤ c.codeMax

/-- GENCODES during the walk, with room for `room` more digits in `PATH`. -/
structure Walking (c : Config) (room : Nat) (s : State) : Prop where
  cfg : s.cfg = c
  node : ArenaBounds c s.node
  code : CodeBounds c s.code
  room : s.work.path.length + room ≤ c.codeMax

theorem Walking.after_readNode {c : Config} {room : Nat} {s : State} (h : Walking c room s) (i : Nat) :
    Walking c room (readNode i s).2 := by
  obtain ⟨hcfg, hnode, hcode, hroom⟩ := h
  rw [readNode_state]
  exact ⟨hcfg, hnode, hcode, hroom⟩

/-- A leaf's code is what has been walked of the path (R145). -/
theorem Walking.after_recordCode {c : Config} {room x : Nat} {s : State} (h : Walking c room s)
    (hx : x < c.nsymv) : Walking c room (recordCode x s) := by
  obtain ⟨hcfg, hnode, hcode, hroom⟩ := h
  have hlen : (s.work.path.take s.work.depth).length ≤ c.codeMax := by rw [List.length_take]; omega
  exact ⟨hcfg, hnode, Memory.forall_write hcode ⟨hx, hlen⟩, hroom⟩

theorem Walking.after_leaf {c : Config} {room : Nat} {s : State} (h : Walking c room s) (i : Nat) :
    Walking c room (recordCode (readNode i s).1.sym (readNode i s).2) := by
  have hcfg := h.cfg
  subst hcfg
  exact (h.after_readNode i).after_recordCode (readNode_sym_lt h.node)

/-- One digit of room is spent on the way down. -/
theorem Walking.after_descendLeft {c : Config} {room : Nat} {s : State} (h : Walking c (room + 1) s) (r : Word) :
    Walking c room (descendLeft r s) := by
  obtain ⟨hcfg, hnode, hcode, hroom⟩ := h
  exact ⟨hcfg, hnode, hcode, by simp; omega⟩

/-- Turning from the left child to the right one takes no room: the last digit is replaced. -/
theorem Walking.after_turnRight {c : Config} {room : Nat} {s : State} {p : List Bool} (h : Walking c room s)
    (hpath : s.work.path = p ++ [false]) : Walking c room (turnRight s) := by
  obtain ⟨hcfg, hnode, hcode, hroom⟩ := h
  exact ⟨hcfg, hnode, hcode, by simpa [hpath] using hroom⟩

/-- The walk keeps the bounds of CODE: the digit of room spent on the way down comes back on the way up. -/
theorem walk_walking {c : Config} (room : Nat) (i : Word) {s t : State} (h : Walking c room s)
    (ht : walk room i s = some t) : Walking c room t := by
  induction room generalizing i s t with
  | zero =>
    simp only [walk, Option.ite_none_right_eq_some, Option.some.injEq] at ht
    obtain ⟨-, rfl⟩ := ht
    exact h.after_leaf _
  | succ room ih =>
    simp only [walk] at ht
    split at ht
    · cases ht; exact h.after_leaf _
    · split at ht
      · cases ht
      · next u hu =>
        split at ht
        · cases ht
        · next v hv =>
          cases ht
          obtain ⟨-, -, hpathu, -, -⟩ := walk_frame _ _ _ _ hu
          obtain ⟨-, -, hpathv, -, -⟩ := walk_frame _ _ _ _ hv
          simp only [descendLeft_work, readNode_work, turnRight_work] at hpathu hpathv
          have walkingu := ih _ ((h.after_readNode i.toNat).after_descendLeft _) hu
          have walkingv := ih _ (walkingu.after_turnRight hpathu) hv
          obtain ⟨hcfg, hnode, hcode, -⟩ := walkingv
          exact ⟨hcfg, hnode, hcode, by simpa [hpathv, hpathu] using h.room⟩

theorem gencodesEngine_codeBounds {s t : State} (h : ElementBounds s) (ht : gencodesEngine s = some t) :
    CodeBounds s.cfg t.code := by
  obtain ⟨-, -, -, -, hnode, hcode⟩ := h
  have hfresh : Walking s.cfg s.cfg.codeMax (freshCodes s) :=
    ⟨rfl, hnode, by simp [freshCodes, CodeBounds], by simp [freshCodes]⟩
  unfold gencodesEngine at ht
  split at ht
  · cases ht; exact hcode
  · dsimp only at ht
    split at ht
    · cases ht
      have hone : ([false] : Code).length ≤ s.cfg.codeMax := le_max_left _ _
      exact Memory.forall_write (hfresh.after_readNode _).code ⟨readNode_sym_lt hnode, hone⟩
    · rw [Option.map_eq_some_iff] at ht
      obtain ⟨u, hu, rfl⟩ := ht
      exact (walk_walking _ _ hfresh hu).code

/-- GENCODES keeps the bounds. -/
theorem gencodesEngine_keeps_bounds {s t : State} (h : ElementBounds s) (ht : gencodesEngine s = some t) :
    ElementBounds t := by
  have hcode' := gencodesEngine_codeBounds h ht
  obtain ⟨hfreq, htext, hbits, hout, hnode, hcode⟩ := h
  rcases gencodesEngine_cases ht with ⟨-, rfl⟩ | ⟨-, hg⟩
  · exact ⟨hfreq, htext, hbits, hout, hnode, hcode⟩
  · rw [hg]; exact ⟨hfreq, htext, hbits, hout, hnode, hcode'⟩

/-! ### ENCODE and DECODE: a position never passes the capacity of its buffer -/

/-- The induction of a bounded loop whose turns keep a property however they end. -/
theorem Pass.loop_state_induct {turn : State → Pass} {P : State → Prop} (keep : ∀ s, P s → P (turn s).state)
    (n : Nat) (s : State) (h : P s) : P (Pass.loop turn n s).state := by
  have step_state : ∀ s p, P s → turn s = p → P p.state := fun s p hs hp => hp ▸ keep s hs
  obtain ⟨hrun, hraise⟩ := Pass.loop_induct (turn := turn) (Q := P)
    (fun s t => step_state s (.running t)) (fun s t => step_state s (.raised t)) n s h
  cases hl : Pass.loop turn n s with
  | running t => exact hrun t hl
  | raised t => exact hraise t hl

/-- Every entry of BITS stands below `BITS_MAX` (R43). -/
def BitsBounds (c : Config) (s : State) : Prop := s.cfg = c ∧ ∀ e ∈ s.bits, e.1 < c.bitsMax

/-- A turn appends a code only where it fits into what is left of BITS (R152). -/
theorem encodeTurn_bitsBounds {c : Config} (s : State) (h : BitsBounds c s) :
    BitsBounds c (encodeTurn s).state := by
  have hread : BitsBounds c (readText s.work.tpos s).2 := by simpa [BitsBounds] using h
  rcases encodeTurn_cases s with ⟨-, ht⟩ | ⟨cs, -, -, ht⟩ | ⟨cs, -, hfit, ht⟩ <;> rw [ht]
  · exact hread
  · exact hread
  · obtain ⟨hcfg, hbits⟩ := h
    refine ⟨hread.1, fun e he => ?_⟩
    simp only [Pass.state, appendCode_bits, readText_bits, readText_work] at he
    rcases Memory.mem_writeRun he with ⟨-, hlt, -⟩ | he
    · rw [hcfg] at hfit; omega
    · exact hbits e he

theorem encodeEngine_bitsBounds {s : State} (h : BitsBounds s.cfg s) : BitsBounds s.cfg (encodeEngine s) := by
  have hloop := Pass.loop_state_induct encodeTurn_bitsBounds (startEncode s).tlen.toNat (startEncode s) h
  unfold encodeEngine
  split
  · exact h
  · dsimp only
    split
    · exact h
    · split
      · next u hu => rw [hu] at hloop; exact hloop
      · next u hu => rw [hu] at hloop; exact hloop

/-- ENCODE keeps the bounds. -/
theorem encodeEngine_keeps_bounds {s : State} (h : ElementBounds s) : ElementBounds (encodeEngine s) := by
  obtain ⟨hfreq, htext, hbits, hout, hnode, hcode⟩ := h
  obtain ⟨-, hbits'⟩ := encodeEngine_bitsBounds ⟨rfl, hbits⟩
  rcases encodeEngine_cases s with ⟨-, he⟩ | ⟨-, he, -⟩ | ⟨-, he⟩ <;> rw [he]
  · exact ⟨hfreq, htext, hbits, hout, hnode, hcode⟩
  · exact ⟨hfreq, htext, hbits', hout, hnode, hcode⟩
  · exact ⟨hfreq, htext, hbits', hout, hnode, hcode⟩

/-- OUT during the decoding loop: within its bounds, and the next position at most `OUT_MAX`; the symbols come from
NODE. -/
structure Decoding (c : Config) (s : State) : Prop where
  cfg : s.cfg = c
  node : ArenaBounds c s.node
  out : ∀ e ∈ s.out, e.1 < c.outMax ∧ e.2 < c.nsymv
  pos : s.work.opos ≤ c.outMax

section DecodeTurn
variable {c : Config} {s : State}

theorem Decoding.after_readNode (h : Decoding c s) (i : Nat) : Decoding c (readNode i s).2 := by
  obtain ⟨hcfg, hnode, hout, hpos⟩ := h
  rw [readNode_state]
  exact ⟨hcfg, hnode, hout, hpos⟩

theorem Decoding.after_readBits (h : Decoding c s) (i : Nat) : Decoding c (readBits i s).2 := by
  obtain ⟨hcfg, hnode, hout, hpos⟩ := h
  rw [show (readBits i s).2 = _ from readElem_state _ _ _ _]
  exact ⟨hcfg, hnode, hout, hpos⟩

theorem Decoding.after_moveCur (h : Decoding c s) (i : Word) : Decoding c (moveCur i s) :=
  ⟨h.cfg, h.node, h.out, h.pos⟩

theorem Decoding.after_nextBit (h : Decoding c s) : Decoding c (nextBit s) := ⟨h.cfg, h.node, h.out, h.pos⟩

/-- `Emit` writes only while OUT is not full (R162). -/
theorem Decoding.after_emit (h : Decoding c s) {x : Nat} (hx : x < c.nsymv) : Decoding c (emit x s).state := by
  obtain ⟨hcfg, hnode, hout, hpos⟩ := h
  rcases emit_cases x s with ⟨-, he⟩ | ⟨hne, he⟩ <;> rw [he]
  · exact ⟨hcfg, hnode, hout, hpos⟩
  · rw [hcfg] at hne
    have hlt : s.work.opos < c.outMax := by omega
    exact ⟨hcfg, hnode, Memory.forall_write hout ⟨hlt, hx⟩, hlt⟩

theorem Decoding.sym_lt (h : Decoding c s) (i : Nat) : (readNode i s).1.sym < c.nsymv := by
  have hcfg := h.cfg
  subst hcfg
  exact readNode_sym_lt h.node

theorem Decoding.after_singleBit (h : Decoding c s) (b : Bool) : Decoding c (singleBit b s).state := by
  have hemit := (h.after_readNode s.root.toNat).after_emit (h.sym_lt s.root.toNat)
  unfold singleBit
  split
  · exact ⟨h.cfg, h.node, h.out, h.pos⟩
  · dsimp only
    split
    · next t ht => rw [ht] at hemit; exact hemit
    · next t ht => rw [ht] at hemit; exact hemit.after_nextBit

theorem Decoding.after_treeBit (h : Decoding c s) (b : Bool) : Decoding c (treeBit b s).state := by
  unfold treeBit
  dsimp only
  have hmove := (h.after_readNode s.cur.toNat).after_moveCur
    (if b then (readNode s.cur.toNat s).1.right else (readNode s.cur.toNat s).1.left)
  generalize moveCur _ (readNode s.cur.toNat s).2 = t at hmove ⊢
  have hchild := hmove.after_readNode t.cur.toNat
  split
  · have hemit := hchild.after_emit (hmove.sym_lt t.cur.toNat)
    split
    · next u hu => rw [hu] at hemit; exact hemit
    · next u hu => rw [hu] at hemit; exact (hemit.after_moveCur _).after_nextBit
  · exact hchild.after_nextBit

theorem decodeTurn_decoding (s : State) (h : Decoding c s) : Decoding c (decodeTurn s).state := by
  have hbits := h.after_readBits s.work.bpos
  unfold decodeTurn
  dsimp only
  split
  · exact hbits.after_singleBit _
  · exact hbits.after_treeBit _

end DecodeTurn

theorem decodeEngine_outBounds {s : State} (h : ElementBounds s) :
    ∀ e ∈ (decodeEngine s).out, e.1 < s.cfg.outMax ∧ e.2 < s.cfg.nsymv := by
  obtain ⟨-, -, -, hout, hnode, -⟩ := h
  have hloop := Pass.loop_state_induct decodeTurn_decoding (startDecode s).blen.toNat (startDecode s)
    (⟨rfl, hnode, hout, Nat.zero_le _⟩ : Decoding s.cfg (startDecode s))
  unfold decodeEngine
  split
  · exact hout
  · dsimp only
    split
    · exact hout
    · split
      · next u hu => rw [hu] at hloop; exact hloop.out
      · next u hu =>
        rw [hu] at hloop
        unfold finishDecode
        split <;> exact hloop.out

/-- DECODE keeps the bounds. -/
theorem decodeEngine_keeps_bounds {s : State} (h : ElementBounds s) : ElementBounds (decodeEngine s) := by
  have hout' := decodeEngine_outBounds h
  obtain ⟨hfreq, htext, hbits, hout, hnode, hcode⟩ := h
  rcases decodeEngine_cases s with ⟨-, hd⟩ | ⟨-, hd, -⟩ | ⟨-, hd⟩ <;> rw [hd]
  · exact ⟨hfreq, htext, hbits, hout, hnode, hcode⟩
  · exact ⟨hfreq, htext, hbits, hout', hnode, hcode⟩
  · exact ⟨hfreq, htext, hbits, hout', hnode, hcode⟩

/-! ### Every command and every transaction -/

/-- CLEAR keeps the bounds. -/
theorem clearBlock_keeps_bounds {s : State} (h : ElementBounds s) : ElementBounds (clearBlock s) := by
  obtain ⟨-, htext, hbits, hout, hnode, hcode⟩ := h
  exact ⟨Memory.forall_filled fun i hi => ⟨hi, Nat.zero_le _⟩, htext, hbits, hout, hnode, hcode⟩

theorem exec_keeps_bounds {i : Instr} {s t : State} (hc : s.cfg.Valid) (h : ElementBounds s)
    (ht : exec i s = .next t) : ElementBounds t := by
  rcases exec_cases ht with ⟨-, rfl⟩ | ⟨-, rfl⟩ | ⟨-, rfl⟩ | ⟨-, -, rfl⟩ |
    ⟨-, ⟨-, rfl⟩ | ⟨-, rfl⟩ | ⟨-, u, hu, rfl⟩ | ⟨-, rfl⟩ | ⟨-, rfl⟩⟩
  case inl | inr.inl | inr.inr.inr.inl => exact h
  case inr.inr.inl => exact clearBlock_keeps_bounds h
  · exact countEngine_keeps_bounds hc h
  · exact buildEngine_keeps_bounds h
  · exact (gencodesEngine_keeps_bounds h hu :)
  · exact encodeEngine_keeps_bounds h
  · exact decodeEngine_keeps_bounds h

theorem illegalCommand_next {v : Word} {s t : State} (h : illegalCommand v s = .next t) :
    t = refuseWrite s ∨ t = answerWrite (raise (v.extractLsb' 0 8) .illegalCommand 0#4 v 0 s) := by
  rcases accepted_next h with ⟨-, ht⟩ | ⟨-, ht⟩
  · exact .inl ht
  · exact .inr (finish_next ht)

/-- A register write keeps the bounds: `DATA` stores a value that fits, at an index of its space (R62, R63). -/
theorem regWrite_keeps_bounds {r : Reg} {v : Word} {s t : State} (h : ElementBounds s)
    (ht : regWrite r v s = some t) : ElementBounds t := by
  rcases regWrite_cases ht with ⟨-, rfl⟩ | ⟨-, rfl⟩ | ⟨-, rfl⟩ | ⟨-, rfl⟩ | ⟨-, rfl⟩ | ⟨-, hd⟩
  case inr.inr.inr.inr.inr =>
    obtain ⟨hfreq, htext, hbits, hout, hnode, hcode⟩ := h
    rcases dataWrite_cases hd with ⟨-, hi, hv, rfl⟩ | ⟨-, hi, hv, rfl⟩ | ⟨-, hi, -, rfl⟩
    · exact ⟨Memory.forall_write hfreq ⟨hi, Nat.le_of_lt_succ hv⟩, htext, hbits, hout, hnode, hcode⟩
    · exact ⟨hfreq, Memory.forall_write htext ⟨hi, hv⟩, hbits, hout, hnode, hcode⟩
    · exact ⟨hfreq, htext, Memory.forall_write hbits hi, hout, hnode, hcode⟩
  all_goals exact h

theorem resetOf_elementBounds (c : Config) (es : List HostEvent) (d : Nat) :
    ElementBounds (State.resetOf c es d) := by
  simp [ElementBounds, State.resetOf]

/-- Settles O26, by the invariant of each command's loop. -/
theorem everyStepKeepsElementBounds : Obligations.EveryStepKeepsElementBounds := by
  unfold Obligations.EveryStepKeepsElementBounds
  intro s t hc h ht
  rcases step_cases ht with ⟨-, rfl⟩ | ⟨e, es, -, hcase⟩
  · exact h
  · rcases hcase with ⟨off, width, -, rfl⟩ | ⟨off, width, v, -, rfl⟩ | ⟨r, v, u, -, -, hu, rfl⟩ |
      ⟨v, i, -, -, hi⟩ | ⟨v, x, -, -, hx⟩ | ⟨-, rfl⟩ | ⟨v, -, rfl⟩
    · rw [hostRead_state]; exact h
    · exact h
    · exact (regWrite_keeps_bounds (s := { s with host := es }) h hu :)
    · exact exec_keeps_bounds (s := { s with host := es }) hc h hi
    · rcases illegalCommand_next hx with rfl | rfl <;> exact h
    · exact resetOf_elementBounds _ _ _
    · exact resetOf_elementBounds _ _ _

end Sys2Proof.Machine
end

section
/-! PROOF. O12: the reset state is well formed. -/

namespace Sys2Proof.Machine

/-- With no tree and no codes the invariants of both say nothing (R51, R52); the memories are empty (R49). -/
theorem resetOf_inv {c : Config} (hc : c.Valid) (es : List HostEvent) (d : Nat) : Inv (State.resetOf c es d) := by
  have hmem : MemoryForm (State.resetOf c es d) := ⟨rfl, rfl, rfl, rfl, rfl, rfl⟩
  have hreg : RegisterForm (State.resetOf c es d) := ⟨Nat.zero_le _, fun _ => rfl, fun _ => ⟨rfl, rfl, rfl, rfl, rfl⟩⟩
  have htree : TreeInv (State.resetOf c es d) := fun h => nomatch h
  have hcode : CodeInv (State.resetOf c es d) := fun h => nomatch h
  exact ⟨hc, hmem, resetOf_elementBounds c es d, hreg, htree, hcode⟩

theorem t8_valid : Config.t8.Valid := by decide

/-- Settles O12: every invariant holds of the reset state, whatever the parameters. -/
theorem resetStateIsWellFormed : Obligations.ResetStateIsWellFormed := by
  unfold Obligations.ResetStateIsWellFormed
  exact ⟨fun c es d hc => resetOf_inv hc es d, resetOf_inv t8_valid [] 0⟩

end Sys2Proof.Machine
end

section
/-! PROOF. O24: each memory is written by its own writers alone. What a command may write, then what a register write may,
then the step that is one of them. -/

namespace Sys2Proof.Machine

/-- A word that decodes to a command is that command's word: every mask of R92 is all ones. -/
theorem eq_encode_of_decodeWord {v : Word} {i : Instr} (h : decodeWord v = .ok i) : v = encode i := by
  unfold decodeWord at h
  split at h
  · next r hr =>
    cases h
    have hmatch := List.find?_some hr
    have hrow := List.mem_of_find?_eq_some hr
    have hmask : ∀ r ∈ opcodeRows, r.mask = BitVec.allOnes 32 ∧ r.matchBits = encode r.instr := by decide
    obtain ⟨hm, he⟩ := hmask r hrow
    simpa only [hm, he, BitVec.and_allOnes, beq_iff_eq] using hmatch
  · split at h <;> cases h

/-- From `s` to `t` nothing but the memories that command `i` writes has changed (R41 to R46), and no parameter
(R5). -/
def WritesOfCommand (i : Instr) (s t : State) : Prop :=
  (t.freq ≠ s.freq → i = .count ∨ i = .clear) ∧ t.text = s.text ∧ (t.bits ≠ s.bits → i = .encode) ∧
  (t.out ≠ s.out → i = .decode) ∧ (t.node ≠ s.node → i = .build) ∧ (t.code ≠ s.code → i = .gencodes) ∧
  t.cfg = s.cfg

/-- Every command writes its own memories alone, by the frame of its engine. -/
theorem exec_writes {i : Instr} {s t : State} (h : exec i s = .next t) : WritesOfCommand i s t := by
  rcases exec_cases h with ⟨rfl, rfl⟩ | ⟨rfl, rfl⟩ | ⟨rfl, rfl⟩ | ⟨-, -, rfl⟩ |
    ⟨-, ⟨rfl, rfl⟩ | ⟨rfl, rfl⟩ | ⟨rfl, u, hu, rfl⟩ | ⟨rfl, rfl⟩ | ⟨rfl, rfl⟩⟩
  · simp [WritesOfCommand]
  · simp [WritesOfCommand]
  · simp [WritesOfCommand, clearBlock]
  · simp [WritesOfCommand]
  · rw [countEngine_frame]; simp [WritesOfCommand]
  · rcases buildEngine_cases s with ⟨hb, -⟩ | ⟨-, hb, -⟩ <;> rw [hb] <;> simp [WritesOfCommand]
  · rcases gencodesEngine_cases hu with ⟨-, rfl⟩ | ⟨-, hg⟩
    · simp [WritesOfCommand]
    · rw [hg]; simp [WritesOfCommand]
  · rcases encodeEngine_cases s with ⟨-, he⟩ | ⟨-, he, -⟩ | ⟨-, he⟩ <;> rw [he] <;> simp [WritesOfCommand]
  · rcases decodeEngine_cases s with ⟨-, hd⟩ | ⟨-, hd, -⟩ | ⟨-, hd⟩ <;> rw [hd] <;> simp [WritesOfCommand]

/-- From `s` to `t` no memory has changed, and no parameter. -/
def KeepsMemories (s t : State) : Prop :=
  t.freq = s.freq ∧ t.text = s.text ∧ t.bits = s.bits ∧ t.out = s.out ∧ t.node = s.node ∧ t.code = s.code ∧
  t.cfg = s.cfg

theorem KeepsMemories.refl (s : State) : KeepsMemories s s := ⟨rfl, rfl, rfl, rfl, rfl, rfl, rfl⟩

/-- From `s` to `t` no memory has changed but the one that `SEL` names, where the host may write it, and no
parameter (R64 to R69). -/
def WritesOfData (s t : State) : Prop :=
  (t.freq ≠ s.freq → s.sel = 1#32) ∧ (t.text ≠ s.text → s.sel = 2#32) ∧ (t.bits ≠ s.bits → s.sel = 3#32) ∧
  t.out = s.out ∧ t.node = s.node ∧ t.code = s.code ∧ t.cfg = s.cfg

/-- A register write writes no memory but, through `DATA`, the one that `SEL` names (R64 to R66). -/
theorem regWrite_writes {r : Reg} {v : Word} {s t : State} (h : regWrite r v s = some t) :
    KeepsMemories s t ∨ (r = .data ∧ WritesOfData s t) := by
  rcases regWrite_cases h with ⟨-, rfl⟩ | ⟨-, rfl⟩ | ⟨-, rfl⟩ | ⟨-, rfl⟩ | ⟨-, rfl⟩ | ⟨rfl, hd⟩
  case inr.inr.inr.inr.inr =>
    rcases dataWrite_cases hd with ⟨hsel, -, -, rfl⟩ | ⟨hsel, -, -, rfl⟩ | ⟨hsel, -, -, rfl⟩ <;>
      exact .inr (by simp [WritesOfData, hsel])
  all_goals exact .inl (KeepsMemories.refl _)

/-- Everything a step other than reset can do to the memories: nothing, what a `DATA` write does, or what a
command does. -/
theorem step_writes {s t : State} (h : step s = .next t) (hreset : s.host.head? ≠ some .reset)
    (hcut : ∀ v, s.host.head? ≠ some (.cutByReset v)) :
    KeepsMemories s t ∨
    (∃ v, s.host.head? = some (.write 0x3C 32 v) ∧ WritesOfData s t) ∨
    (∃ i, s.host.head? = some (.write 0x00 32 (encode i)) ∧ WritesOfCommand i s t) := by
  rcases step_cases h with ⟨-, rfl⟩ | ⟨e, es, hhost, hcase⟩
  · exact .inl (KeepsMemories.refl _)
  · simp only [hhost, List.head?_cons] at hreset hcut ⊢
    rcases hcase with ⟨off, width, -, rfl⟩ | ⟨off, width, v, -, rfl⟩ | ⟨r, v, u, rfl, -, hu, rfl⟩ |
      ⟨v, i, rfl, hdec, hi⟩ | ⟨v, x, -, -, hx⟩ | ⟨rfl, -⟩ | ⟨v, rfl, -⟩
    · rw [hostRead_state]; exact .inl (KeepsMemories.refl _)
    · exact .inl (KeepsMemories.refl _)
    · rcases regWrite_writes hu with hkept | ⟨rfl, hdata⟩
      · exact .inl hkept
      · exact .inr (.inl ⟨v, rfl, hdata⟩)
    · exact .inr (.inr ⟨i, by rw [eq_encode_of_decodeWord hdec], (exec_writes hi :)⟩)
    · rcases illegalCommand_next hx with rfl | rfl <;> exact .inl (KeepsMemories.refl _)
    · exact absurd rfl hreset
    · exact absurd rfl (hcut v)

/-- Settles O24, by what each command and each `DATA` write may write. -/
theorem memoriesChangeOnlyByTheirWriters : Obligations.MemoriesChangeOnlyByTheirWriters := by
  unfold Obligations.MemoriesChangeOnlyByTheirWriters
  intro s t h hreset hcut
  rcases step_writes h hreset hcut with ⟨hfreq, htext, hbits, hout, hnode, hcode, hcfg⟩ |
    ⟨v, hhost, hfreq, htext, hbits, hout, hnode, hcode, hcfg⟩ |
    ⟨i, hhost, hfreq, htext, hbits, hout, hnode, hcode, hcfg⟩
  · exact ⟨absurd hfreq, absurd htext, absurd hbits, absurd hout, absurd hnode, absurd hcode, hcfg⟩
  · exact ⟨fun hne => .inr (.inr ⟨hfreq hne, v, hhost⟩), fun hne => ⟨htext hne, v, hhost⟩,
      fun hne => .inr ⟨hbits hne, v, hhost⟩, absurd hout, absurd hnode, absurd hcode, hcfg⟩
  · refine ⟨fun hne => ?_, absurd htext, fun hne => ?_, fun hne => ?_, fun hne => ?_, fun hne => ?_, hcfg⟩
    · rcases hfreq hne with rfl | rfl
      · exact .inl hhost
      · exact .inr (.inl hhost)
    · obtain rfl := hbits hne
      exact .inl hhost
    · obtain rfl := hout hne
      exact hhost
    · obtain rfl := hnode hne
      exact hhost
    · obtain rfl := hcode hne
      exact hhost

end Sys2Proof.Machine
end

section
/-! PROOF. How a step keeps an invariant, said once: the cases of `exec_cases` and `step_cases` as the premises of one
rule each. -/

namespace Sys2Proof.Machine

variable {P : State → Prop} {s t : State}

/-- A command keeps a property that does not look at the answer, if each engine does. -/
theorem exec_keeps {i : Instr} (ht : exec i s = .next t) (h : P s) (answer : ∀ u r, P u → P { u with resp := r })
    (clrerr : P (clearErr s)) (clear : P (clearBlock s)) (count : P (countEngine s)) (build : P (buildEngine s))
    (gencodes : ∀ u, gencodesEngine s = some u → P u) (encode : P (encodeEngine s))
    (decode : P (decodeEngine s)) : P t := by
  rcases exec_cases ht with ⟨-, rfl⟩ | ⟨-, rfl⟩ | ⟨-, rfl⟩ | ⟨-, -, rfl⟩ |
    ⟨-, ⟨-, rfl⟩ | ⟨-, rfl⟩ | ⟨-, u, hu, rfl⟩ | ⟨-, rfl⟩ | ⟨-, rfl⟩⟩
  · exact answer _ _ h
  · exact answer _ _ clrerr
  · exact answer _ _ clear
  · exact answer _ _ h
  · exact answer _ _ count
  · exact answer _ _ build
  · exact answer _ _ (gencodes u hu)
  · exact answer _ _ encode
  · exact answer _ _ decode

/-- A register write changes the registers and memories the host may write, and nothing else (R61). -/
theorem regWrite_frame {r : Reg} {v : Word} (h : regWrite r v s = some t) :
    t = { s with
      tlen := t.tlen, blen := t.blen, sel := t.sel, idx := t.idx, sub := t.sub, freq := t.freq, text := t.text,
      bits := t.bits } := by
  rcases regWrite_cases h with ⟨-, rfl⟩ | ⟨-, rfl⟩ | ⟨-, rfl⟩ | ⟨-, rfl⟩ | ⟨-, rfl⟩ | ⟨-, hd⟩
  case inr.inr.inr.inr.inr => rcases dataWrite_cases hd with ⟨-, -, -, rfl⟩ | ⟨-, -, -, rfl⟩ | ⟨-, -, -, rfl⟩ <;> rfl
  all_goals rfl

/-- A step keeps a property that does not look at the model's own fields, if every register write, every command and
IllegalCommand do, and it holds after reset. -/
theorem step_keeps (ht : step s = .next t) (h : P s)
    (own : ∀ u es r d, P u → P { u with host := es, resp := r, draws := d })
    (write : ∀ r v es u, regWrite r v { s with host := es } = some u → P u)
    (command : ∀ i es u, exec i { s with host := es } = .next u → P u)
    (illegal : ∀ e : ErrLatch, e.code = 6#4 → P { s with err := e })
    (reset : ∀ c es d, P (State.resetOf c es d)) : P t := by
  rcases step_cases ht with ⟨-, rfl⟩ | ⟨e, es, -, hcase⟩
  · exact h
  · rcases hcase with ⟨off, width, -, rfl⟩ | ⟨off, width, v, -, rfl⟩ | ⟨r, v, u, -, -, hu, rfl⟩ |
      ⟨v, i, -, -, hi⟩ | ⟨v, x, -, -, hx⟩ | ⟨-, rfl⟩ | ⟨v, -, rfl⟩
    · rw [hostRead_state]; exact own s _ _ _ h
    · exact own s _ _ _ h
    · exact own u _ _ _ (write r v es u hu)
    · exact command i es t hi
    · rcases illegalCommand_next hx with rfl | rfl
      · exact own s _ _ _ h
      · exact own { s with err := _ } es _ s.draws (illegal _ rfl)
    · exact reset _ _ _
    · exact reset _ _ _

end Sys2Proof.Machine
end

section
/-! PROOF. O25: every step keeps every memory in canonical form, since every engine reaches its memory through
writes. -/

namespace Sys2Proof.Machine

/-! ### Each engine keeps the memory it writes canonical -/

theorem countTurn_wf {s : State} (h : Memory.wf s.freq = true) : Memory.wf (countTurn s).freq = true := by
  simpa [countTurn] using Memory.wf_write _ _ h

theorem countEngine_wf {s : State} (h : Memory.wf s.freq = true) : Memory.wf (countEngine s).freq = true := by
  unfold countEngine
  split
  · exact h
  · exact iterate_induct (P := fun _ u => Memory.wf u.freq = true) (fun _ _ => countTurn_wf) s.tlen.toNat 0
      (freshTable s) (Memory.wf_filled _ _)

theorem seedTurn_wf (s : State) (h : Memory.wf s.node = true) : Memory.wf (seedTurn s).state.node = true := by
  rcases seedTurn_cases s with ⟨-, ht⟩ | ⟨-, -, ht⟩ | ⟨-, -, ht⟩ <;> rw [ht]
  · simpa [Pass.state] using h
  · simpa [Pass.state] using h
  · simpa [Pass.state, seedLeaf] using Memory.wf_write _ _ h

theorem mergeLoop_wf (n : Nat) {s : State} (h : Memory.wf s.node = true) :
    Memory.wf (mergeLoop n s).node = true := by
  induction n generalizing s with
  | zero => exact h
  | succ n ih =>
    simp only [mergeLoop]
    split
    · exact ih (Memory.wf_write _ _ h)
    · exact h

theorem buildEngine_wf {s : State} (h : Memory.wf s.node = true) : Memory.wf (buildEngine s).node = true := by
  have hloop := Pass.loop_state_induct seedTurn_wf s.cfg.nsymv (startBuild s) h
  unfold buildEngine
  split
  · next t ht => rw [ht] at hloop; exact hloop
  · next t ht =>
    rw [ht] at hloop
    unfold afterSeed
    split
    · exact hloop
    · split
      · exact hloop
      · exact mergeLoop_wf _ hloop

theorem recordCode_wf (x : Nat) {s : State} (h : Memory.wf s.code = true) :
    Memory.wf (recordCode x s).code = true := Memory.wf_write _ _ h

theorem walk_wf (room : Nat) (i : Word) {s t : State} (h : Memory.wf s.code = true)
    (ht : walk room i s = some t) : Memory.wf t.code = true := by
  have hleaf : ∀ x k u, Memory.wf u.code = true → Memory.wf (recordCode x (readNode k u).2).code = true :=
    fun x k u hu => recordCode_wf x (by simpa using hu)
  induction room generalizing i s t with
  | zero =>
    simp only [walk, Option.ite_none_right_eq_some, Option.some.injEq] at ht
    obtain ⟨-, rfl⟩ := ht
    exact hleaf _ _ _ h
  | succ room ih =>
    simp only [walk] at ht
    split at ht
    · cases ht; exact hleaf _ _ _ h
    · split at ht
      · cases ht
      · next u hu =>
        split at ht
        · cases ht
        · next v hv =>
          cases ht
          have hu' : Memory.wf u.code = true := ih _ (by simpa using h) hu
          exact (ih _ (by simpa using hu') hv :)

theorem gencodesEngine_wf {s t : State} (h : Memory.wf s.code = true) (ht : gencodesEngine s = some t) :
    Memory.wf t.code = true := by
  unfold gencodesEngine at ht
  split at ht
  · cases ht; exact h
  · dsimp only at ht
    split at ht
    · cases ht
      exact Memory.wf_write _ _ (by simp [freshCodes, Memory.wf_nil])
    · rw [Option.map_eq_some_iff] at ht
      obtain ⟨u, hu, rfl⟩ := ht
      exact (walk_wf _ _ (s := freshCodes s) Memory.wf_nil hu :)

theorem encodeTurn_wf (s : State) (h : Memory.wf s.bits = true) : Memory.wf (encodeTurn s).state.bits = true := by
  rcases encodeTurn_cases s with ⟨-, ht⟩ | ⟨c, -, -, ht⟩ | ⟨c, -, -, ht⟩ <;> rw [ht]
  · simpa [Pass.state] using h
  · simpa [Pass.state] using h
  · simpa [Pass.state] using Memory.wf_writeRun _ _ h

theorem encodeEngine_wf {s : State} (h : Memory.wf s.bits = true) : Memory.wf (encodeEngine s).bits = true := by
  have hloop := Pass.loop_state_induct encodeTurn_wf (startEncode s).tlen.toNat (startEncode s) h
  unfold encodeEngine
  split
  · exact h
  · dsimp only
    split
    · exact h
    · split
      · next u hu => rw [hu] at hloop; exact hloop
      · next u hu => rw [hu] at hloop; exact hloop

theorem emit_wf (x : Nat) {s : State} (h : Memory.wf s.out = true) : Memory.wf (emit x s).state.out = true := by
  rcases emit_cases x s with ⟨-, he⟩ | ⟨-, he⟩ <;> rw [he]
  · exact h
  · exact Memory.wf_write _ _ h

theorem singleBit_wf (b : Bool) {s : State} (h : Memory.wf s.out = true) :
    Memory.wf (singleBit b s).state.out = true := by
  have hemit := emit_wf (readNode s.root.toNat s).1.sym (s := (readNode s.root.toNat s).2) (by simpa using h)
  unfold singleBit
  split
  · exact h
  · dsimp only
    split
    · next t ht => rw [ht] at hemit; exact hemit
    · next t ht => rw [ht] at hemit; exact hemit

theorem treeBit_wf (b : Bool) {s : State} (h : Memory.wf s.out = true) :
    Memory.wf (treeBit b s).state.out = true := by
  unfold treeBit
  dsimp only
  generalize hm : moveCur _ (readNode s.cur.toNat s).2 = t
  have hchild : Memory.wf (readNode t.cur.toNat t).2.out = true := by simpa [← hm] using h
  split
  · have hemit := emit_wf (readNode t.cur.toNat t).1.sym hchild
    split
    · next u hu => rw [hu] at hemit; exact hemit
    · next u hu => rw [hu] at hemit; exact hemit
  · exact hchild

theorem decodeTurn_wf (s : State) (h : Memory.wf s.out = true) : Memory.wf (decodeTurn s).state.out = true := by
  unfold decodeTurn
  dsimp only
  split
  · exact singleBit_wf _ (by simpa using h)
  · exact treeBit_wf _ (by simpa using h)

theorem decodeEngine_wf {s : State} (h : Memory.wf s.out = true) : Memory.wf (decodeEngine s).out = true := by
  have hloop := Pass.loop_state_induct decodeTurn_wf (startDecode s).blen.toNat (startDecode s) h
  unfold decodeEngine
  split
  · exact h
  · dsimp only
    split
    · exact h
    · split
      · next u hu => rw [hu] at hloop; exact hloop
      · next u hu =>
        rw [hu] at hloop
        unfold finishDecode
        split <;> exact hloop

/-! ### Every command and every transaction -/

theorem exec_keeps_memoryForm {i : Instr} {s t : State} (h : MemoryForm s) (ht : exec i s = .next t) :
    MemoryForm t := by
  have hs := h
  obtain ⟨hfreq, htext, hbits, hout, hnode, hcode⟩ := h
  refine exec_keeps (P := MemoryForm) ht hs (fun u r hu => hu) hs ?clear ?count ?build ?gencodes ?encode ?decode
  case clear => exact ⟨Memory.wf_filled _ _, htext, hbits, hout, hnode, hcode⟩
  case count =>
    have hfreq' := countEngine_wf hfreq
    rw [countEngine_frame]; exact ⟨hfreq', htext, hbits, hout, hnode, hcode⟩
  case build =>
    have hnode' := buildEngine_wf hnode
    rcases buildEngine_cases s with ⟨hb, -⟩ | ⟨-, hb, -⟩ <;> rw [hb] <;>
      exact ⟨hfreq, htext, hbits, hout, hnode', hcode⟩
  case gencodes =>
    intro u hu
    have hcode' := gencodesEngine_wf hcode hu
    rcases gencodesEngine_cases hu with ⟨-, rfl⟩ | ⟨-, hg⟩
    · exact hs
    · rw [hg]; exact ⟨hfreq, htext, hbits, hout, hnode, hcode'⟩
  case encode =>
    have hbits' := encodeEngine_wf hbits
    rcases encodeEngine_cases s with ⟨-, he⟩ | ⟨-, he, -⟩ | ⟨-, he⟩ <;> rw [he]
    · exact hs
    · exact ⟨hfreq, htext, hbits', hout, hnode, hcode⟩
    · exact ⟨hfreq, htext, hbits', hout, hnode, hcode⟩
  case decode =>
    have hout' := decodeEngine_wf hout
    rcases decodeEngine_cases s with ⟨-, hd⟩ | ⟨-, hd, -⟩ | ⟨-, hd⟩ <;> rw [hd]
    · exact hs
    · exact ⟨hfreq, htext, hbits, hout', hnode, hcode⟩
    · exact ⟨hfreq, htext, hbits, hout', hnode, hcode⟩

/-- A register write keeps the form: `DATA` stores by one write of a memory (R64 to R66). -/
theorem regWrite_keeps_memoryForm {r : Reg} {v : Word} {s t : State} (h : MemoryForm s)
    (ht : regWrite r v s = some t) : MemoryForm t := by
  rcases regWrite_cases ht with ⟨-, rfl⟩ | ⟨-, rfl⟩ | ⟨-, rfl⟩ | ⟨-, rfl⟩ | ⟨-, rfl⟩ | ⟨-, hd⟩
  case inr.inr.inr.inr.inr =>
    obtain ⟨hfreq, htext, hbits, hout, hnode, hcode⟩ := h
    rcases dataWrite_cases hd with ⟨-, -, -, rfl⟩ | ⟨-, -, -, rfl⟩ | ⟨-, -, -, rfl⟩
    · exact ⟨Memory.wf_write _ _ hfreq, htext, hbits, hout, hnode, hcode⟩
    · exact ⟨hfreq, Memory.wf_write _ _ htext, hbits, hout, hnode, hcode⟩
    · exact ⟨hfreq, htext, Memory.wf_write _ _ hbits, hout, hnode, hcode⟩
  all_goals exact h

/-- Settles O25, engine by engine. -/
theorem everyStepKeepsMemoriesCanonical : Obligations.EveryStepKeepsMemoriesCanonical := by
  unfold Obligations.EveryStepKeepsMemoriesCanonical
  intro s t h ht
  refine step_keeps (P := MemoryForm) ht h (fun u es r d hu => hu) ?write ?command (fun e he => h) ?reset
  case write => exact fun r v es u hu => regWrite_keeps_memoryForm (s := { s with host := es }) h hu
  case command => exact fun i es u hu => exec_keeps_memoryForm (s := { s with host := es }) h hu
  case reset => exact fun c es d => ⟨rfl, rfl, rfl, rfl, rfl, rfl⟩

end Sys2Proof.Machine
end

section
/-! PROOF. O27: every step keeps the register form. Each engine but BUILD leaves the registers of a withdrawn tree,
and an error it latches is one of the six. -/

namespace Sys2Proof.Machine

/-! ### Every command and every transaction -/

/-- The latch holds one of the six codes, or is all zero (R24). -/
def LatchForm (e : ErrLatch) : Prop := e.code.toNat ≤ 6 ∧ (e.code = 0#4 → e = ErrLatch.none)

/-- A code of the table of R201 is a form of the latch. -/
theorem latchForm_of_code {e : ErrLatch} {c : BitVec 4} (h : e.code = c) (hc : c.toNat ≤ 6 ∧ c ≠ 0#4) :
    LatchForm e := by
  subst h; exact ⟨hc.1, fun h0 => absurd h0 hc.2⟩

theorem raise_latchForm (o : BitVec 8) (kd : ErrKind) (sb : BitVec 4) (p : Word) (x : Nat) (s : State) :
    LatchForm (raise o kd sb p x s).err := by
  have hcode : kd.code.toNat ≤ 6 ∧ kd.code ≠ 0#4 := by cases kd <;> decide
  exact latchForm_of_code rfl hcode

/-- What the registers keep to without a tree (R52). -/
def WithdrawnForm (s : State) : Prop :=
  s.treeValid = false →
    s.codesValid = false ∧ s.nleaf = 0#32 ∧ s.nnode = 0#32 ∧ s.root = nilIndex ∧ s.cur = nilIndex

theorem withdrawnForm_of_tree {s : State} (h : s.treeValid = true) : WithdrawnForm s := fun h0 => by
  simp [h] at h0

theorem registerForm_iff {s : State} : RegisterForm s ↔ LatchForm s.err ∧ WithdrawnForm s := by
  simp only [LatchForm, WithdrawnForm, and_assoc]

/-- Everything COUNT can do to the latch: nothing, or CapacityExceeded 1 (R111). -/
theorem countEngine_err (s : State) :
    (countEngine s).err = s.err ∨
    (countEngine s).err = (raise Instr.count.opc .capacityExceeded 1#4 s.tlen 0 s).err := by
  unfold countEngine
  split
  · exact .inr rfl
  · refine .inl (iterate_induct (P := fun _ u => u.err = s.err) (fun _ u hu => ?_) s.tlen.toNat 0
      (freshTable s) rfl)
    rw [countTurn_frame]; exact hu

theorem exec_keeps_registerForm {i : Instr} {s t : State} (h : RegisterForm s) (ht : exec i s = .next t) :
    RegisterForm t := by
  obtain ⟨herr, hreg⟩ := registerForm_iff.1 h
  refine exec_keeps (P := RegisterForm) ht h (fun u r hu => hu) ?clrerr ?clear ?count ?build ?gencodes ?encode ?decode
  case clrerr => exact registerForm_iff.2 ⟨⟨Nat.zero_le _, fun _ => rfl⟩, hreg⟩
  case clear => exact ⟨Nat.zero_le _, fun _ => rfl, fun _ => ⟨rfl, rfl, rfl, rfl, rfl⟩⟩
  case count =>
    have hlatch : LatchForm (countEngine s).err := by
      rcases countEngine_err s with he | he <;> rw [he]
      · exact herr
      · exact raise_latchForm _ _ _ _ _ _
    rw [countEngine_frame]; exact registerForm_iff.2 ⟨hlatch, hreg⟩
  case build =>
    rcases buildEngine_cases s with ⟨hb, -, herr'⟩ | ⟨hvalid, hb, -⟩
    · have hlatch : LatchForm (buildEngine s).err := by
        rcases herr' with ⟨hc, -⟩ | ⟨hc, -⟩ | ⟨hc, -⟩ <;> exact latchForm_of_code hc (by decide)
      rw [hb]; exact registerForm_iff.2 ⟨hlatch, fun _ => ⟨rfl, rfl, rfl, rfl, rfl⟩⟩
    · have hkept : (buildEngine s).err = s.err := by rw [hb]
      exact registerForm_iff.2 ⟨hkept ▸ herr, withdrawnForm_of_tree hvalid⟩
  case gencodes =>
    intro u hu
    rcases gencodesEngine_cases hu with ⟨-, rfl⟩ | ⟨hvalid, hg⟩
    · exact registerForm_iff.2 ⟨raise_latchForm _ _ _ _ _ _, hreg⟩
    · rw [hg]; exact registerForm_iff.2 ⟨herr, withdrawnForm_of_tree hvalid⟩
  case encode =>
    rcases encodeEngine_cases s with ⟨-, he⟩ | ⟨-, he, -, herr'⟩ | ⟨-, he⟩
    · rw [he]; exact registerForm_iff.2 ⟨raise_latchForm _ _ _ _ _ _, hreg⟩
    · have hlatch : LatchForm (encodeEngine s).err := by
        rcases herr' with ⟨hc, -⟩ | ⟨hc, -⟩ | ⟨hc, -⟩ <;> exact latchForm_of_code hc (by decide)
      rw [he]; exact registerForm_iff.2 ⟨hlatch, hreg⟩
    · rw [he]; exact h
  case decode =>
    rcases decodeEngine_cases s with ⟨-, hd⟩ | ⟨hvalid, hd, -, herr'⟩ | ⟨hvalid, hd⟩
    · rw [hd]; exact registerForm_iff.2 ⟨raise_latchForm _ _ _ _ _ _, hreg⟩
    · have hlatch : LatchForm (decodeEngine s).err := by
        rcases herr' with ⟨hc, -⟩ | ⟨hc, -⟩ | ⟨hc, -⟩ | ⟨hc, -⟩ <;> exact latchForm_of_code hc (by decide)
      rw [hd]; exact registerForm_iff.2 ⟨hlatch, withdrawnForm_of_tree hvalid⟩
    · rw [hd]; exact registerForm_iff.2 ⟨herr, withdrawnForm_of_tree hvalid⟩

/-- Settles O27, command by command; no register write reaches the latch, the flags or the registers of the tree. -/
theorem everyStepKeepsTheRegisterForm : Obligations.EveryStepKeepsTheRegisterForm := by
  unfold Obligations.EveryStepKeepsTheRegisterForm
  intro s t h ht
  obtain ⟨-, hreg⟩ := registerForm_iff.1 h
  refine step_keeps (P := RegisterForm) ht h (fun u es r d hu => hu) ?write ?command ?illegal ?reset
  case write => exact fun r v es u hu => by rw [regWrite_frame hu]; exact h
  case command => exact fun i es u hu => exec_keeps_registerForm (s := { s with host := es }) h hu
  case illegal => exact fun e he => registerForm_iff.2 ⟨latchForm_of_code he (by decide), hreg⟩
  case reset => exact fun c es d => ⟨Nat.zero_le _, fun _ => rfl, fun _ => ⟨rfl, rfl, rfl, rfl, rfl⟩⟩

end Sys2Proof.Machine
end

section
/-! PROOF. O28: BUILD leaves a tree, and no other command touches one. First the leaves the seed scan makes, then the
queue and the forest that every merge keeps, then the tree that is left when the root alone is queued. -/

namespace Sys2Proof.Machine

/-! ### The arena -/

theorem wordOf_toNat {i : Nat} (h : i < 2 ^ 32) : (wordOf i).toNat = i := by
  rw [BitVec.toNat_ofNat, Nat.mod_eq_of_lt h]

theorem weightOf_eq_nodeAt (s : State) (i : Nat) : weightOf s.node i = (nodeAt s i).w := by
  unfold weightOf nodeAt
  cases s.node.read i <;> rfl

theorem nodeAt_of_read {s : State} {i : Nat} {nd : Node} (h : s.node.read i = some nd) : nodeAt s i = nd := by
  simp [nodeAt, h]

theorem read_of_listed {s : State} {i : Nat} (h : (s.node.read i).isSome = true) :
    s.node.read i = some (nodeAt s i) := by
  obtain ⟨nd, hnd⟩ := Option.isSome_iff_exists.1 h
  rw [hnd, nodeAt_of_read hnd]

theorem Holds.read {α : Type} {m : Memory α} {vs : List α} (h : Holds m vs) {i : Nat} (hi : i < vs.length) :
    m.read i = some vs[i] := by rw [h i hi, List.getElem?_eq_getElem hi]

/-- One more element at the next index. -/
theorem Holds.write_length {α : Type} {m : Memory α} {vs : List α} (h : Holds m vs) (v : α) :
    Holds (m.write vs.length v) (vs ++ [v]) := by
  intro i hi
  rw [Memory.read_write]
  rw [List.length_append, List.length_singleton] at hi
  split
  · next heq => simp [heq]
  · next hne => rw [List.getElem?_append_left (by omega), h i (by omega)]

/-- An element written at or above what is held. -/
theorem Holds.write_above {α : Type} {m : Memory α} {vs : List α} {k : Nat} (h : Holds m vs) (hk : vs.length ≤ k)
    (v : α) : Holds (m.write k v) vs := fun i hi => by
  rw [Memory.read_write_other m v (by omega), h i hi]

theorem Holds.map_weightOf {m : Memory Node} {ls : List Node} (h : Holds m ls) :
    (List.range ls.length).map (weightOf m) = ls.map Node.w := by
  refine List.ext_getElem (by simp) fun i hi _ => ?_
  have hi' : i < ls.length := by simpa using hi
  simp [weightOf, h.read hi']

/-! ### Seeding (R122) -/

/-- The seed scan has made the leaves `ls`: they are the arena so far, all of them queued, and `TOTAL` is their
weight. -/
structure SeededWith (ls : List Node) (s : State) : Prop where
  next : s.work.next = ls.length
  inq : s.work.inq = List.range ls.length
  qcnt : s.work.qcnt = ls.length
  total : s.work.total = (ls.map Node.w).sum
  node : Holds s.node ls

theorem startBuild_seededWith (s : State) : SeededWith [] (startBuild s) :=
  ⟨rfl, rfl, rfl, rfl, fun i hi => absurd hi (Nat.not_lt_zero i)⟩

theorem SeededWith.after_readFreq {ls : List Node} {s : State} (h : SeededWith ls s) (k : Nat) :
    SeededWith ls (readFreq k s).2 := by
  obtain ⟨hnext, hinq, hqcnt, htotal, hnode⟩ := h
  rw [show (readFreq k s).2 = _ from readElem_state _ _ _ _]
  exact ⟨hnext, hinq, hqcnt, htotal, hnode⟩

theorem SeededWith.after_advanceScan {ls : List Node} {s : State} (h : SeededWith ls s) :
    SeededWith ls (advanceScan s) := ⟨h.next, h.inq, h.qcnt, h.total, h.node⟩

theorem SeededWith.after_seedLeaf {ls : List Node} {s : State} (h : SeededWith ls s) (f : Nat) :
    SeededWith (ls ++ [leafNode f s.work.scan]) (seedLeaf f s) := by
  obtain ⟨hnext, hinq, hqcnt, htotal, hnode⟩ := h
  refine ⟨?_, ?_, ?_, ?_, ?_⟩
  · simp [seedLeaf, hnext]
  · simp [seedLeaf, hnext, hinq, List.range_succ]
  · simp [seedLeaf, hqcnt]
  · simp [seedLeaf, htotal, leafNode]
  · simpa [seedLeaf, hnext] using hnode.write_length (leafNode f s.work.scan)

/-- The leaves of symbols below `k` in ascending order, with the fields of R45 (R51 (b)). -/
structure LeafList (k : Nat) (ls : List Node) : Prop where
  fields : ∀ nd ∈ ls, nd.leaf = true ∧ nd.w ≠ 0 ∧ nd.sym < k ∧ nd.left = nilIndex ∧ nd.right = nilIndex
  ascending : ls.Pairwise (fun a b => a.sym < b.sym)

theorem LeafList.nil : LeafList 0 [] := ⟨by simp, List.Pairwise.nil⟩

theorem LeafList.mono {k k' : Nat} {ls : List Node} (h : LeafList k ls) (hk : k ≤ k') : LeafList k' ls where
  fields nd hnd := by
    obtain ⟨hleaf, hw, hsym, hchildren⟩ := h.fields nd hnd
    exact ⟨hleaf, hw, hsym.trans_le hk, hchildren⟩
  ascending := h.ascending

theorem LeafList.append_leafNode {k f : Nat} {ls : List Node} (h : LeafList k ls) (hf : f ≠ 0) :
    LeafList (k + 1) (ls ++ [leafNode f k]) where
  fields nd hnd := by
    rcases List.mem_append.1 hnd with hnd | hnd
    · exact (h.mono (Nat.le_succ k)).fields nd hnd
    · rw [List.mem_singleton.1 hnd]
      exact ⟨rfl, hf, Nat.lt_succ_self k, rfl, rfl⟩
  ascending := by
    refine List.pairwise_append.2 ⟨h.ascending, List.pairwise_singleton _ _, fun a ha b hb => ?_⟩
    obtain ⟨-, -, hsym, -⟩ := h.fields a ha
    rw [List.mem_singleton.1 hb]
    exact hsym

/-- A seed scan that raises nothing leaves at most `MAXLEAF` leaves of the form of R51 (b). -/
theorem seedLoop_leafList {s t : State} (ht : Pass.loop seedTurn s.cfg.nsymv (startBuild s) = .running t) :
    ∃ ls, SeededWith ls t ∧ LeafList s.cfg.nsymv ls ∧ ls.length ≤ s.cfg.maxLeaf := by
  have hloop := Pass.loop_count (turn := seedTurn) (Q := fun _ => True)
    (P := fun k u => u.cfg = s.cfg ∧ u.work.scan = k ∧
      ∃ ls, SeededWith ls u ∧ LeafList k ls ∧ ls.length ≤ s.cfg.maxLeaf)
    ?keep (fun _ _ _ _ _ => trivial) s.cfg.nsymv 0 (startBuild s)
    ⟨rfl, rfl, [], startBuild_seededWith s, LeafList.nil, Nat.zero_le _⟩
  case keep =>
    rintro k u v ⟨hcfg, rfl, ls, hseed, hls, hlen⟩ hv
    rcases seedTurn_cases u with ⟨-, h⟩ | ⟨-, -, h⟩ | ⟨hf, hroom, h⟩ <;> rw [h] at hv <;> cases hv
    · exact ⟨by simpa using hcfg, by simp, ls, (hseed.after_readFreq _).after_advanceScan,
        hls.mono (Nat.le_succ _), hlen⟩
    · have hread := (hseed.after_readFreq u.work.scan).after_seedLeaf (readFreq u.work.scan u).1
      rw [readFreq_work] at hread
      rw [hseed.next, hcfg] at hroom
      refine ⟨by simpa [seedLeaf] using hcfg, by simp [seedLeaf], _, hread.after_advanceScan,
        hls.append_leafNode hf, ?_⟩
      rw [List.length_append, List.length_singleton]
      omega
  obtain ⟨-, -, hls⟩ := hloop.1 t ht
  rwa [Nat.zero_add] at hls

/-! ### Merging: the queue (R125 to R127) -/

/-- The queue while a tree of `n` leaves is made: no node stands in it twice, the node made last is in it, and
every merge makes one node of two. -/
structure Queueing (n : Nat) (s : State) : Prop where
  form : QueueForm s
  nodup : s.work.inq.Nodup
  last : s.work.next - 1 ∈ s.work.inq
  count : s.work.next + s.work.qcnt = 2 * n

/-- The left node of the next merge. -/
abbrev leftOf (s : State) : Nat := (extractMin s).1

/-- The right node of the next merge. -/
abbrev rightOf (s : State) : Nat := (extractMin (extractMin s).2).1

theorem mergeTurn_node (s : State) :
    (mergeTurn s).node = s.node.write s.work.next (mergeNode s.node (leftOf s) (rightOf s)) := rfl

theorem mergeTurn_inq (s : State) :
    (mergeTurn s).work.inq = (s.work.inq.erase (leftOf s)).erase (rightOf s) ++ [s.work.next] := rfl

@[simp] theorem mergeTurn_next (s : State) : (mergeTurn s).work.next = s.work.next + 1 := rfl

@[simp] theorem mergeTurn_qcnt (s : State) : (mergeTurn s).work.qcnt = s.work.qcnt - 1 - 1 + 1 := rfl

theorem before_weight_le {m : Memory Node} {a b : Nat} (h : before m a b = true) : weightOf m a ≤ weightOf m b := by
  rw [before_iff] at h; omega

section Merge
variable {n : Nat} {s : State}

theorem Queueing.inq_ne_nil (h : Queueing n s) : s.work.inq ≠ [] := List.ne_nil_of_mem h.last

theorem Queueing.next_pos (h : Queueing n s) : 0 < s.work.next := by
  have := h.form.1 _ h.last; omega

theorem Queueing.qcnt_pos (h : Queueing n s) : 0 < s.work.qcnt := by
  rw [h.form.2]; exact List.length_pos_of_mem h.last

/-- After the first extraction the queue still holds a node. -/
theorem Queueing.rest_ne_nil (h : Queueing n s) (hq : 1 < s.work.qcnt) : (extractMin s).2.work.inq ≠ [] := by
  obtain ⟨hform, hcnt, -⟩ := extractMin_queue h.form h.inq_ne_nil
  exact List.ne_nil_of_length_pos (by rw [← hform.2]; omega)

theorem Queueing.left_mem (h : Queueing n s) : leftOf s ∈ s.work.inq := extractMin_mem h.inq_ne_nil

theorem Queueing.right_mem (h : Queueing n s) (hq : 1 < s.work.qcnt) :
    rightOf s ∈ s.work.inq ∧ rightOf s ≠ leftOf s := by
  have hmem : rightOf s ∈ s.work.inq.erase (leftOf s) := extractMin_mem (h.rest_ne_nil hq)
  obtain ⟨hne, hmem⟩ := h.nodup.mem_erase_iff.1 hmem
  exact ⟨hmem, hne⟩

/-- The left node is a lightest of the queue. -/
theorem Queueing.left_le (h : Queueing n s) {j : Nat} (hj : j ∈ s.work.inq) :
    weightOf s.node (leftOf s) ≤ weightOf s.node j := by
  by_cases hne : j = leftOf s
  · rw [hne]
  · exact before_weight_le ((queueMin_spec s.node h.inq_ne_nil).2 j hj hne)

/-- The right node is a lightest of the others. -/
theorem Queueing.right_le (h : Queueing n s) (hq : 1 < s.work.qcnt) {j : Nat} (hj : j ∈ s.work.inq)
    (hne : j ≠ leftOf s) : weightOf s.node (rightOf s) ≤ weightOf s.node j := by
  have hrest : j ∈ (extractMin s).2.work.inq := h.nodup.mem_erase_iff.2 ⟨hne, hj⟩
  by_cases heq : j = rightOf s
  · rw [heq]
  · exact before_weight_le ((queueMin_spec s.node (h.rest_ne_nil hq)).2 j hrest heq)

/-- What a merge leaves in the queue. -/
theorem Queueing.mem_mergeTurn (h : Queueing n s) {j : Nat} :
    j ∈ (mergeTurn s).work.inq ↔ (j ∈ s.work.inq ∧ j ≠ leftOf s ∧ j ≠ rightOf s) ∨ j = s.work.next := by
  rw [mergeTurn_inq, List.mem_append, (h.nodup.erase _).mem_erase_iff, h.nodup.mem_erase_iff, List.mem_singleton]
  tauto

theorem mergeTurn_queueing (h : Queueing n s) (hq : 1 < s.work.qcnt) : Queueing n (mergeTurn s) where
  form := by
    obtain ⟨hform, -⟩ := extractMin_queue h.form h.inq_ne_nil
    obtain ⟨hform', -⟩ := extractMin_queue hform (h.rest_ne_nil hq)
    rw [mergeTurn_eq]
    exact appendNode_keeps_queueForm _ hform'
  nodup := by
    rw [mergeTurn_inq]
    refine ((h.nodup.erase _).erase _).append (List.nodup_singleton _) ?_
    rw [List.disjoint_singleton]
    intro hmem
    exact (h.form.1 _ (List.mem_of_mem_erase (List.mem_of_mem_erase hmem))).false
  last := by rw [mergeTurn_inq, mergeTurn_next]; simp
  count := by have := h.count; rw [mergeTurn_next, mergeTurn_qcnt]; omega

/-- A merge keeps the weight of the queue (R127). -/
theorem queueWeight_mergeTurn (h : Queueing n s) (hq : 1 < s.work.qcnt) :
    queueWeight (mergeTurn s) = queueWeight s := by
  obtain ⟨hform, -, hsum⟩ := extractMin_queue h.form h.inq_ne_nil
  obtain ⟨hform', -, hsum'⟩ := extractMin_queue hform (h.rest_ne_nil hq)
  have happend : queueWeight (mergeTurn s) = queueWeight (extractMin (extractMin s).2).2 +
      (mergeNode s.node (leftOf s) (rightOf s)).w := by
    rw [mergeTurn_eq]; exact queueWeight_appendNode _ hform'
  rw [happend, hsum, hsum', Nat.add_comm]
  exact Nat.add_assoc _ _ _

/-- The root alone is left when no two nodes are queued (R128, R47). -/
theorem Queueing.root_alone (h : Queueing n s) (hq : s.work.qcnt ≤ 1) :
    s.work.next = 2 * n - 1 ∧ s.work.qcnt = 1 ∧ s.work.inq = [2 * n - 2] := by
  have hcount := h.count
  have hpos := h.qcnt_pos
  have hnext := h.next_pos
  have hlen : s.work.inq.length = 1 := by rw [← h.form.2]; omega
  obtain ⟨r, hr⟩ := List.length_eq_one_iff.1 hlen
  have hlast := h.last
  rw [hr, List.mem_singleton] at hlast
  refine ⟨by omega, by omega, ?_⟩
  rw [hr, ← hlast, show s.work.next - 1 = 2 * n - 2 by omega]

end Merge

/-- The induction of the merge loop, once. -/
theorem mergeLoop_induct {P : State → Prop} (keep : ∀ s, P s → 1 < s.work.qcnt → P (mergeTurn s)) (k : Nat)
    {s : State} (h : P s) : P (mergeLoop k s) := by
  induction k generalizing s with
  | zero => exact h
  | succ k ih =>
    simp only [mergeLoop]
    split
    · next hq => exact ih (keep s h hq)
    · exact h

/-- As many merges as there are nodes are enough (R133). -/
theorem mergeLoop_qcnt_le (k : Nat) {s : State} (hk : s.work.qcnt ≤ k + 1) : (mergeLoop k s).work.qcnt ≤ 1 := by
  induction k generalizing s with
  | zero => exact hk
  | succ k ih =>
    simp only [mergeLoop]
    split
    · next hq => exact ih (by rw [mergeTurn_qcnt]; omega)
    · next hq => omega

/-- The nodes made before a merge stay. -/
theorem mergeTurn_holds {s : State} {ls : List Node} (h : Holds s.node ls ∧ ls.length ≤ s.work.next) :
    Holds (mergeTurn s).node ls ∧ ls.length ≤ (mergeTurn s).work.next := by
  obtain ⟨hls, hle⟩ := h
  exact ⟨hls.write_above hle _, Nat.le_succ_of_le hle⟩

/-- After the seed scan every leaf is queued. -/
theorem SeededWith.queueing {ls : List Node} {s : State} (h : SeededWith ls s) (hne : ls ≠ []) :
    Queueing ls.length s where
  form := by
    rw [QueueForm, h.inq, h.next, h.qcnt]
    exact ⟨fun i hi => List.mem_range.1 hi, by simp⟩
  nodup := h.inq ▸ List.nodup_range
  last := by
    have := List.length_pos_of_ne_nil hne
    rw [h.inq, h.next, List.mem_range]; omega
  count := by rw [h.next, h.qcnt]; omega

/-! ### Merging: the forest (R51 (c) to (f)) -/

/-- R51 (c) of one node. -/
def InternalAt (s : State) (i : Nat) : Prop :=
  (nodeAt s i).leaf = false ∧ (nodeAt s i).sym = 0 ∧
  (nodeAt s i).left.toNat < i ∧ (nodeAt s i).right.toNat < i ∧ (nodeAt s i).left ≠ (nodeAt s i).right ∧
  (nodeAt s i).w = (nodeAt s (nodeAt s i).left.toNat).w + (nodeAt s (nodeAt s i).right.toNat).w

/-- The internal nodes below `k` that own node `j`, where the first `n` nodes are leaves (R51 (d)). -/
def owners (s : State) (n k j : Nat) : List Nat :=
  (List.range k).filter (fun i => decide (n ≤ i) && decide (isChild s j i))

/-- The forest while a tree of `n` leaves is made: R51 (c) to (f) of the nodes made so far, where a node is
without an owner exactly while it is queued, and no two queued nodes weigh less than a node already made. -/
structure Forest (n : Nat) (s : State) : Prop extends Queueing n s where
  small : n ≤ 2 ^ 31
  leaves : n ≤ s.work.next
  listed : ∀ i, i < s.work.next → (s.node.read i).isSome = true
  internals : ∀ i, n ≤ i → i < s.work.next → InternalAt s i
  owned : ∀ j, j < s.work.next → (owners s n s.work.next j).length = if j ∈ s.work.inq then 0 else 1
  ordered : ∀ i j, n ≤ j → j < i → i < s.work.next → (nodeAt s j).w ≤ (nodeAt s i).w
  pairs : ∀ x ∈ s.work.inq, ∀ y ∈ s.work.inq, x ≠ y → ∀ j, n ≤ j → j < s.work.next →
    (nodeAt s j).w ≤ (nodeAt s x).w + (nodeAt s y).w

section MergeForest
variable {n : Nat} {s : State}

theorem nodeAt_mergeTurn_of_lt {i : Nat} (h : i < s.work.next) : nodeAt (mergeTurn s) i = nodeAt s i := by
  simp only [nodeAt, mergeTurn_node, Memory.read_write_other _ _ h.ne]

theorem nodeAt_mergeTurn_new (s : State) :
    nodeAt (mergeTurn s) s.work.next = mergeNode s.node (leftOf s) (rightOf s) := by
  simp only [nodeAt, mergeTurn_node, Memory.read_write_same, Option.getD_some]

theorem InternalAt.after_mergeTurn {i : Nat} (h : InternalAt s i) (hi : i < s.work.next) :
    InternalAt (mergeTurn s) i := by
  obtain ⟨hleaf, hsym, hl, hr, hne, hw⟩ := h
  rw [InternalAt, nodeAt_mergeTurn_of_lt hi, nodeAt_mergeTurn_of_lt (hl.trans hi), nodeAt_mergeTurn_of_lt (hr.trans hi)]
  exact ⟨hleaf, hsym, hl, hr, hne, hw⟩

theorem Forest.left_lt (h : Forest n s) : leftOf s < s.work.next := h.form.1 _ h.left_mem

theorem Forest.right_lt (h : Forest n s) (hq : 1 < s.work.qcnt) : rightOf s < s.work.next :=
  h.form.1 _ (h.right_mem hq).1

/-- The indices of the children fit into their fields (R45). -/
theorem Forest.child_toNat (h : Forest n s) {i : Nat} (hi : i < s.work.next) : (wordOf i).toNat = i := by
  have hcount := h.count
  have hsmall := h.small
  have hpos := h.qcnt_pos
  exact wordOf_toNat (by omega)

/-- The new node weighs what its two children weigh. -/
theorem weight_mergeTurn_new (s : State) :
    (nodeAt (mergeTurn s) s.work.next).w = (nodeAt s (leftOf s)).w + (nodeAt s (rightOf s)).w := by
  rw [nodeAt_mergeTurn_new, ← weightOf_eq_nodeAt, ← weightOf_eq_nodeAt]; rfl

theorem Forest.internalAt_new (h : Forest n s) (hq : 1 < s.work.qcnt) : InternalAt (mergeTurn s) s.work.next := by
  have hl : (mergeNode s.node (leftOf s) (rightOf s)).left.toNat = leftOf s := h.child_toNat h.left_lt
  have hr : (mergeNode s.node (leftOf s) (rightOf s)).right.toNat = rightOf s := h.child_toNat (h.right_lt hq)
  have hw := weight_mergeTurn_new s
  rw [InternalAt]
  rw [nodeAt_mergeTurn_new] at hw ⊢
  rw [hl, hr, nodeAt_mergeTurn_of_lt h.left_lt, nodeAt_mergeTurn_of_lt (h.right_lt hq)]
  refine ⟨rfl, rfl, h.left_lt, h.right_lt hq, fun heq => ?_, hw⟩
  exact (h.right_mem hq).2 (hr.symm.trans ((congrArg BitVec.toNat heq).symm.trans hl))

/-- A merge gives an owner to the two nodes it takes out of the queue. -/
theorem Forest.owners_mergeTurn (h : Forest n s) (hq : 1 < s.work.qcnt) (j : Nat) :
    (owners (mergeTurn s) n (s.work.next + 1) j).length =
      (owners s n s.work.next j).length + if j = leftOf s ∨ j = rightOf s then 1 else 0 := by
  have hold : (List.range s.work.next).filter (fun i => decide (n ≤ i) && decide (isChild (mergeTurn s) j i)) =
      owners s n s.work.next j := by
    refine List.filter_congr fun i hi => ?_
    simp only [isChild, nodeAt_mergeTurn_of_lt (List.mem_range.1 hi)]
  have hnew : isChild (mergeTurn s) j s.work.next ↔ (j = leftOf s ∨ j = rightOf s) := by
    simp only [isChild, nodeAt_mergeTurn_new, mergeNode]
    rw [h.child_toNat h.left_lt, h.child_toNat (h.right_lt hq), eq_comm, eq_comm (a := rightOf s)]
  rw [owners, List.range_succ, List.filter_append, hold, List.length_append, List.filter_singleton]
  have hle := h.leaves
  by_cases hj : j = leftOf s ∨ j = rightOf s
  · simp [hnew, hj, hle]
  · simp [hnew, hj]

/-- Nobody owns a node that is still to be made. -/
theorem Forest.owners_next (h : Forest n s) : owners s n s.work.next s.work.next = [] := by
  refine List.filter_eq_nil_iff.2 fun i hi => ?_
  have hi' := List.mem_range.1 hi
  simp only [Bool.and_eq_true, decide_eq_true_eq, not_and]
  intro hn hchild
  obtain ⟨-, -, hl, hr, -⟩ := h.internals i hn hi'
  rcases hchild with hc | hc <;> omega

theorem Forest.owned_mergeTurn (h : Forest n s) (hq : 1 < s.work.qcnt) (j : Nat) (hj : j < s.work.next + 1) :
    (owners (mergeTurn s) n (s.work.next + 1) j).length = if j ∈ (mergeTurn s).work.inq then 0 else 1 := by
  rw [h.owners_mergeTurn hq]
  rcases Nat.lt_succ_iff_lt_or_eq.1 hj with hlt | rfl
  · rw [h.owned j hlt]
    have hne : j ≠ s.work.next := hlt.ne
    by_cases htaken : j = leftOf s ∨ j = rightOf s
    · have hmem : j ∈ s.work.inq := by
        rcases htaken with rfl | rfl
        · exact h.left_mem
        · exact (h.right_mem hq).1
      have hout : j ∉ (mergeTurn s).work.inq := by rw [h.mem_mergeTurn]; tauto
      simp [htaken, hmem, hout]
    · have hsame : j ∈ (mergeTurn s).work.inq ↔ j ∈ s.work.inq := by rw [h.mem_mergeTurn]; tauto
      simp [htaken, hsame]
  · have hl := h.left_lt.ne'
    have hr := (h.right_lt hq).ne'
    have hmem : s.work.next ∈ (mergeTurn s).work.inq := h.mem_mergeTurn.2 (.inr rfl)
    simp [h.owners_next, hl, hr, hmem]

/-- The new node is the heaviest internal node so far: the nodes it owns were queued (R51 (f)). -/
theorem Forest.weight_le_new (h : Forest n s) (hq : 1 < s.work.qcnt) {j : Nat} (hj : n ≤ j)
    (hlt : j < s.work.next + 1) : (nodeAt (mergeTurn s) j).w ≤ (nodeAt (mergeTurn s) s.work.next).w := by
  rcases Nat.lt_succ_iff_lt_or_eq.1 hlt with hlt | rfl
  · obtain ⟨hmem, hne⟩ := h.right_mem hq
    rw [weight_mergeTurn_new, nodeAt_mergeTurn_of_lt hlt]
    exact h.pairs _ h.left_mem _ hmem hne.symm j hj hlt
  · exact le_rfl

/-- No two nodes queued after a merge weigh less than the new node: it is one of them, or they were queued
behind the two it took. -/
theorem Forest.new_le_pair (h : Forest n s) (hq : 1 < s.work.qcnt) {x y : Nat}
    (hx : x ∈ (mergeTurn s).work.inq) (hy : y ∈ (mergeTurn s).work.inq) (hne : x ≠ y) :
    (nodeAt (mergeTurn s) s.work.next).w ≤ (nodeAt (mergeTurn s) x).w + (nodeAt (mergeTurn s) y).w := by
  rcases h.mem_mergeTurn.1 hx with ⟨hx, -⟩ | rfl
  · rcases h.mem_mergeTurn.1 hy with ⟨hy, hyl, -⟩ | rfl
    · rw [weight_mergeTurn_new, nodeAt_mergeTurn_of_lt (h.form.1 x hx), nodeAt_mergeTurn_of_lt (h.form.1 y hy)]
      simp only [← weightOf_eq_nodeAt]
      exact Nat.add_le_add (h.left_le hx) (h.right_le hq hy hyl)
    · exact Nat.le_add_left _ _
  · exact Nat.le_add_right _ _

theorem mergeTurn_forest (h : Forest n s) (hq : 1 < s.work.qcnt) : Forest n (mergeTurn s) where
  toQueueing := mergeTurn_queueing h.toQueueing hq
  small := h.small
  leaves := Nat.le_succ_of_le h.leaves
  listed i hi := by
    rw [mergeTurn_node, Memory.read_write]
    split
    · rfl
    · next hne => exact h.listed i (by rw [mergeTurn_next] at hi; omega)
  internals i hn hi := by
    rw [mergeTurn_next] at hi
    rcases Nat.lt_succ_iff_lt_or_eq.1 hi with hlt | rfl
    · exact (h.internals i hn hlt).after_mergeTurn hlt
    · exact h.internalAt_new hq
  owned := h.owned_mergeTurn hq
  ordered i j hj hlt hi := by
    rw [mergeTurn_next] at hi
    rcases Nat.lt_succ_iff_lt_or_eq.1 hi with hi | rfl
    · rw [nodeAt_mergeTurn_of_lt hi, nodeAt_mergeTurn_of_lt (hlt.trans hi)]
      exact h.ordered i j hj hlt hi
    · exact h.weight_le_new hq hj (Nat.lt_succ_of_lt hlt)
  pairs x hx y hy hne j hj hlt := (h.weight_le_new hq hj hlt).trans (h.new_le_pair hq hx hy hne)

end MergeForest

/-- The leaves alone are a forest. -/
theorem SeededWith.forest {ls : List Node} {s : State} (h : SeededWith ls s) (hne : ls ≠ [])
    (hsmall : ls.length ≤ 2 ^ 31) : Forest ls.length s where
  toQueueing := h.queueing hne
  small := hsmall
  leaves := h.next.ge
  listed i hi := by rw [h.node.read (h.next ▸ hi)]; rfl
  internals i hn hi := absurd (h.next ▸ hi) hn.not_gt
  owned j hj := by
    have hnone : owners s ls.length s.work.next j = [] := by
      refine List.filter_eq_nil_iff.2 fun i hi => ?_
      rw [h.next, List.mem_range] at hi
      simp [hi]
    have hmem : j ∈ s.work.inq := by rw [h.inq, ← h.next]; exact List.mem_range.2 hj
    simp [hnone, hmem]
  ordered i j hj hlt hi := absurd (h.next ▸ hlt.trans hi) hj.not_gt
  pairs x _ y _ _ j hj hlt := absurd (h.next ▸ hlt) hj.not_gt

/-! ### The tree -/

/-- What is left of a forest when the root alone is queued. -/
theorem Forest.tree {n : Nat} {s : State} (h : Forest n s) (hq : s.work.qcnt ≤ 1) :
    (∀ i, i < 2 * n - 1 → (s.node.read i).isSome = true) ∧
    (∀ i, i < 2 * n - 1 → n ≤ i → InternalAt s i) ∧
    (∀ j, j < 2 * n - 2 → (owners s n (2 * n - 1) j).length = 1) ∧
    (∀ i, i < 2 * n - 1 → ∀ j, j < i → n ≤ j → (nodeAt s j).w ≤ (nodeAt s i).w) := by
  obtain ⟨hnext, -, hinq⟩ := h.root_alone hq
  rw [← hnext]
  refine ⟨h.listed, fun i hi hn => h.internals i hn hi, fun j hj => ?_,
    fun i hi j hlt hn => h.ordered i j hn hlt hi⟩
  have hout : j ∉ s.work.inq := by rw [hinq, List.mem_singleton]; omega
  rw [h.owned j (by omega), if_neg hout]

theorem Holds.nodeAt {s : State} {ls : List Node} (h : Holds s.node ls) {i : Nat} (hi : i < ls.length) :
    nodeAt s i = ls[i] := nodeAt_of_read (h.read hi)

theorem LeafList.treeLeaves {s : State} {ls : List Node} (h : LeafList s.cfg.nsymv ls) (hls : Holds s.node ls)
    (hlen : leaves s = ls.length) : TreeLeaves s := by
  rw [TreeLeaves, hlen]
  refine ⟨fun i hi => ?_, fun i hi j hj => ?_⟩
  · rw [hls.nodeAt hi]; exact h.fields _ (List.getElem_mem hi)
  · rw [hls.nodeAt hi, hls.nodeAt (hj.trans hi)]
    exact List.pairwise_iff_getElem.1 h.ascending j i (hj.trans hi) hi hj

/-- The merges of a seeded queue leave the root alone in the queue, the leaves, and the weight of all leaves in the
root. -/
theorem SeededWith.merged {ls : List Node} {s : State} (h : SeededWith ls s) (hne : ls ≠ []) :
    Queueing ls.length (mergeLoop s.work.qcnt s) ∧ (mergeLoop s.work.qcnt s).work.qcnt ≤ 1 ∧
    Holds (mergeLoop s.work.qcnt s).node ls ∧
    weightOf (mergeLoop s.work.qcnt s).node (2 * ls.length - 2) = (ls.map Node.w).sum := by
  obtain ⟨hqueue, hweight, hls, -⟩ := mergeLoop_induct
    (P := fun u => Queueing ls.length u ∧ queueWeight u = queueWeight s ∧ Holds u.node ls ∧ ls.length ≤ u.work.next)
    (fun u ⟨hqueue, hweight, hls⟩ hq => ⟨mergeTurn_queueing hqueue hq,
      (queueWeight_mergeTurn hqueue hq).trans hweight, mergeTurn_holds hls⟩)
    s.work.qcnt ⟨h.queueing hne, rfl, h.node, h.next.ge⟩
  have hone := mergeLoop_qcnt_le s.work.qcnt (s := s) (Nat.le_succ _)
  obtain ⟨-, -, hroot⟩ := hqueue.root_alone hone
  refine ⟨hqueue, hone, hls, ?_⟩
  calc weightOf (mergeLoop s.work.qcnt s).node (2 * ls.length - 2)
      = queueWeight (mergeLoop s.work.qcnt s) := by simp [queueWeight, hroot]
    _ = queueWeight s := hweight
    _ = (ls.map Node.w).sum := by rw [queueWeight, h.inq, h.node.map_weightOf]

/-- The merges of a seeded queue leave a forest. -/
theorem SeededWith.merged_forest {ls : List Node} {s : State} (h : SeededWith ls s) (hne : ls ≠ [])
    (hsmall : ls.length ≤ 2 ^ 31) : Forest ls.length (mergeLoop s.work.qcnt s) :=
  mergeLoop_induct (fun _ hu hq => mergeTurn_forest hu hq) _ (h.forest hne hsmall)

/-- BUILD leaves a tree when it sets `TREE_VALID` (R51, R128). -/
theorem buildEngine_treeInv {s : State} (hc : s.cfg.Valid) : TreeInv (buildEngine s) := by
  intro hvalid
  rcases buildEngine_cases s with ⟨hb, -⟩ | ⟨-, hb, t, ht, hne, htotal, hfin⟩
  · rw [hb] at hvalid; exact absurd hvalid Bool.false_ne_true
  have hcfg : (buildEngine s).cfg = s.cfg := by rw [hb]
  obtain ⟨ls, hseed, hleaves, hmax⟩ := seedLoop_leafList ht
  rw [hseed.next] at hne hfin
  obtain ⟨⟨-, hsymW⟩, -, ⟨-, hnsymv⟩, -⟩ := hc
  have hsmall : ls.length ≤ 2 ^ 31 :=
    (hmax.trans hnsymv).trans (Nat.pow_le_pow_right (by decide) hsymW)
  have hne : ls ≠ [] := List.ne_nil_of_length_pos (Nat.pos_of_ne_zero hne)
  obtain ⟨-, hone, hls, hweight⟩ := hseed.merged hne
  have hforest := hseed.merged_forest hne hsmall
  obtain ⟨hlisted, hinternals, howned, hordered⟩ := hforest.tree hone
  obtain ⟨hnext, -, -⟩ := hforest.root_alone hone
  generalize mergeLoop t.work.qcnt t = u at *
  have hn : leaves (buildEngine s) = ls.length := by rw [hfin]; exact wordOf_toNat (by omega)
  have hnnode : (buildEngine s).nnode.toNat = 2 * ls.length - 1 := by
    rw [hfin]; exact (wordOf_toNat (by omega)).trans hnext
  have hroot : (buildEngine s).root.toNat = 2 * ls.length - 2 := by
    rw [hfin]; exact (wordOf_toNat (by omega)).trans (by omega)
  have hnode : (buildEngine s).node = u.node := by rw [hfin]; rfl
  have hat : ∀ i, nodeAt (buildEngine s) i = nodeAt u i := fun i => by rw [nodeAt, hnode]
  have hrootw : (nodeAt u (2 * ls.length - 2)).w = (ls.map Node.w).sum := by rw [← weightOf_eq_nodeAt, hweight]
  refine ⟨⟨?_, ?_, ?_, ?_⟩, ?_, ?_, ?_, ?_, ⟨?_, ?_⟩, ?_⟩
  · omega
  · rw [hn, hcfg]; exact hmax
  · rw [hn, hnnode]
  · rw [hn, hroot]
  · rw [TreeListed, hn, hnode]; exact hlisted
  · exact LeafList.treeLeaves (hcfg ▸ hleaves) (hnode ▸ hls) hn
  · simp only [TreeInternals, hn, hat]; exact hinternals
  · simp only [TreeOwned, isChild, hn, hat]; exact howned
  · rw [hn, hroot, hat, hrootw, ← hls.map_weightOf]
    simp only [hat, ← weightOf_eq_nodeAt]
  · rw [hroot, hat, hrootw, ← hseed.total, hcfg]; exact htotal
  · simp only [TreeOrdered, hn, hat]; exact hordered

theorem exec_keeps_treeInv {i : Instr} {s t : State} (hc : s.cfg.Valid) (h : TreeInv s) (ht : exec i s = .next t) :
    TreeInv t := by
  refine exec_keeps (P := TreeInv) ht h (fun u r hu => hu) h ?clear ?count (buildEngine_treeInv hc) ?gencodes
    ?encode ?decode
  case clear => exact fun hvalid => absurd hvalid Bool.false_ne_true
  case count => rw [countEngine_frame]; exact h
  case gencodes =>
    intro u hu
    rcases gencodesEngine_cases hu with ⟨-, rfl⟩ | ⟨-, hg⟩
    · exact h
    · rw [hg]; exact h
  case encode => rcases encodeEngine_cases s with ⟨-, he⟩ | ⟨-, he, -⟩ | ⟨-, he⟩ <;> rw [he] <;> exact h
  case decode => rcases decodeEngine_cases s with ⟨-, hd⟩ | ⟨-, hd, -⟩ | ⟨-, hd⟩ <;> rw [hd] <;> exact h

/-- Settles O28, by the forest that every merge of BUILD keeps; nothing else writes the tree. -/
theorem everyStepKeepsTheTreeInvariants : Obligations.EveryStepKeepsTheTreeInvariants := by
  unfold Obligations.EveryStepKeepsTheTreeInvariants
  intro s t hc h ht
  refine step_keeps (P := TreeInv) ht h (fun u es r d hu => hu) ?write ?command (fun e he => h) ?reset
  case write => exact fun r v es u hu => by rw [regWrite_frame hu]; exact h
  case command => exact fun i es u hu => exec_keeps_treeInv (s := { s with host := es }) hc h hu
  case reset => exact fun c es d hvalid => absurd hvalid Bool.false_ne_true

end Sys2Proof.Machine
end

section
/-! PROOF. O37: BUILD of a defined table within capacity completes with a tree over the symbols present. -/

namespace Sys2Proof.Machine

/-- The leaves of the symbols below `k` that are present, in ascending order (R122). -/
def presentLeaves (s : State) (k : Nat) : List Node :=
  ((List.range k).filter (fun x => freqAt s x != 0)).map (fun x => leafNode (freqAt s x) x)

theorem presentLeaves_nsymv (s : State) :
    presentLeaves s s.cfg.nsymv = (present s).map (fun x => leafNode (freqAt s x) x) := rfl

theorem presentLeaves_succ_absent {s : State} {k : Nat} (h : freqAt s k = 0) :
    presentLeaves s (k + 1) = presentLeaves s k := by
  rw [presentLeaves, List.range_succ, List.filter_append, List.map_append]
  simp [presentLeaves, h]

theorem presentLeaves_succ_present {s : State} {k : Nat} (h : freqAt s k ≠ 0) :
    presentLeaves s (k + 1) = presentLeaves s k ++ [leafNode (freqAt s k) k] := by
  rw [presentLeaves, List.range_succ, List.filter_append, List.map_append]
  simp [presentLeaves, h]

/-- The symbols that are absent weigh nothing. -/
theorem presentLeaves_weight (s : State) (k : Nat) :
    ((presentLeaves s k).map Node.w).sum = ((List.range k).map (freqAt s)).sum := by
  induction k with
  | zero => rfl
  | succ k ih =>
    rw [List.range_succ, List.map_append, List.sum_append, ← ih]
    by_cases h : freqAt s k = 0
    · simp [presentLeaves_succ_absent h, h]
    · simp [presentLeaves_succ_present h, leafNode]

theorem presentLeaves_length_mono (s : State) {j k : Nat} (h : j ≤ k) :
    (presentLeaves s j).length ≤ (presentLeaves s k).length :=
  (((List.range_sublist.2 h).filter _).map _).length_le

/-- The seed scan of a defined table makes the leaves of the symbols present, if they are at most `MAXLEAF`. -/
theorem seedLoop_present {s : State} (hdef : FreqDefined s) (hmax : (present s).length ≤ s.cfg.maxLeaf) :
    ∃ t, Pass.loop seedTurn s.cfg.nsymv (startBuild s) = .running t ∧ t.cfg = s.cfg ∧
      SeededWith (presentLeaves s s.cfg.nsymv) t := by
  have hread : ∀ k, k < s.cfg.nsymv → ∀ u : State, u.freq = s.freq → readFreq k u = (freqAt s k, u) := by
    intro k hk u hu
    obtain ⟨v, hv⟩ := Option.isSome_iff_exists.1 (hdef k hk)
    exact readElem_of_read (by simp [hu, freqAt, hv])
  have hroom : ∀ k, k < s.cfg.nsymv → freqAt s k ≠ 0 → (presentLeaves s k).length < s.cfg.maxLeaf := by
    intro k hk hf
    have hmono := presentLeaves_length_mono s (Nat.succ_le_of_lt hk)
    rw [presentLeaves_nsymv, List.length_map, Nat.succ_eq_add_one, presentLeaves_succ_present hf,
      List.length_append, List.length_singleton] at hmono
    omega
  have hloop := Pass.loop_count_lt (turn := seedTurn) (Q := fun _ => False) s.cfg.nsymv
    (P := fun k u => u.cfg = s.cfg ∧ u.freq = s.freq ∧ u.work.scan = k ∧ SeededWith (presentLeaves s k) u)
    ?keep ?stop (startBuild s) ⟨rfl, rfl, rfl, startBuild_seededWith s⟩
  case keep =>
    rintro k hk u v ⟨hcfg, hfreq, rfl, hseed⟩ hv
    have hr := hread u.work.scan hk u hfreq
    rcases seedTurn_cases u with ⟨hf, h⟩ | ⟨-, -, h⟩ | ⟨hf, -, h⟩ <;> rw [h] at hv <;> cases hv <;>
      rw [hr] at hf ⊢
    · rw [presentLeaves_succ_absent hf]
      exact ⟨hcfg, hfreq, rfl, hseed.after_advanceScan⟩
    · rw [presentLeaves_succ_present hf]
      exact ⟨by simpa [seedLeaf] using hcfg, by simpa [seedLeaf] using hfreq, by simp [seedLeaf],
        (hseed.after_seedLeaf _).after_advanceScan⟩
  case stop =>
    rintro k hk u v ⟨hcfg, hfreq, rfl, hseed⟩ hv
    rcases seedTurn_cases u with ⟨-, h⟩ | ⟨hf, hfull, -⟩ | ⟨-, -, h⟩
    · rw [h] at hv; cases hv
    · rw [hread u.work.scan hk u hfreq] at hf
      have hlt := hroom u.work.scan hk hf
      rw [hseed.next, hcfg] at hfull
      omega
    · rw [h] at hv; cases hv
  obtain ⟨hrun, hraise⟩ := hloop
  cases hl : Pass.loop seedTurn s.cfg.nsymv (startBuild s) with
  | running t =>
    obtain ⟨hcfg, -, -, hseed⟩ := hrun t hl
    exact ⟨t, rfl, hcfg, hseed⟩
  | raised t => exact (hraise t hl).elim

/-- BUILD of such a table, with its counts within `WMAX`, is the seed scan, the merges and the end (R120). -/
theorem buildEngine_of_present {s : State} (hdef : FreqDefined s) (hne : present s ≠ [])
    (hmax : (present s).length ≤ s.cfg.maxLeaf) (hsum : freqSum s ≤ s.cfg.wmax) :
    ∃ t, SeededWith (presentLeaves s s.cfg.nsymv) t ∧
      buildEngine s = finishBuild (present s).length (mergeLoop t.work.qcnt t) := by
  obtain ⟨t, hl, hcfg, hseed⟩ := seedLoop_present hdef hmax
  have hnext : t.work.next = (present s).length := by rw [hseed.next, presentLeaves_nsymv, List.length_map]
  have htotal : t.work.total = freqSum s := by rw [hseed.total, presentLeaves_weight]
  have hpos := List.length_pos_of_ne_nil hne
  refine ⟨t, hseed, ?_⟩
  simp only [buildEngine, hl, afterSeed, hnext, htotal, hcfg]
  rw [if_neg (by omega), if_neg (by omega)]

theorem exec_build_clear {s : State} (h : s.err.code = 0#4) :
    exec .build s = .next (answerWrite (buildEngine s)) := 
  accepted_clear h fun s => finish (buildEngine s)

/-- Settles O37: the leaves are those the seed scan makes, and the merges leave the root alone queued. -/
theorem buildCompletesWithATree : Obligations.BuildCompletesWithATree := by
  unfold Obligations.BuildCompletesWithATree
  rintro s n herr hdef rfl hn hmax hsum
  have hne : present s ≠ [] := List.ne_nil_of_length_pos hn
  obtain ⟨t, hseed, hbuild⟩ := buildEngine_of_present hdef hne hmax hsum
  have hlen : (presentLeaves s s.cfg.nsymv).length = (present s).length := by
    rw [presentLeaves_nsymv, List.length_map]
  obtain ⟨hqueue, hone, hls, -⟩ := hseed.merged (List.ne_nil_of_length_pos (hlen ▸ hn))
  obtain ⟨hnext, hqcnt, hinq⟩ := hqueue.root_alone hone
  rw [hlen] at hnext hinq
  rcases buildEngine_cases s with ⟨hb, -⟩ | ⟨htree, hb, -⟩
  · exact absurd ((congrArg State.treeValid hb).symm.trans (congrArg State.treeValid hbuild)) Bool.false_ne_true
  refine ⟨_, exec_build_clear herr, htree, ?codes, ?nleaf, ?nnode, ?root, ?cur, ?inq, ?qcnt, ?leaves, ?frame⟩
  case codes => exact (congrArg State.codesValid hb :)
  case nleaf => exact (congrArg State.nleaf hbuild :)
  case nnode => exact (congrArg State.nnode hbuild).trans (congrArg wordOf hnext)
  case root => exact (congrArg State.root hbuild).trans (congrArg wordOf (by rw [hnext]; omega))
  case cur => exact (congrArg State.cur hb :)
  case inq => exact (congrArg (fun u => u.work.inq) hbuild).trans hinq
  case qcnt => exact (congrArg (fun u => u.work.qcnt) hbuild).trans hqcnt
  case leaves =>
    intro k x hx
    have hk : k < (present s).length := (List.getElem?_eq_some_iff.1 hx).1
    rw [hbuild]
    refine (hls k (hlen ▸ hk)).trans ?_
    rw [presentLeaves_nsymv, List.getElem?_map, hx]
    rfl
  case frame => rw [hb]; rfl

end Sys2Proof.Machine
end

section
/-! PROOF. O30 and O29: under the tree invariant the walk of GENCODES reaches every leaf within `CODE_MAX` digits, so no
command stops, and the table it leaves is that of the root paths. -/

namespace Sys2Proof.Machine

/-! ### Paths -/

/-- One more digit at the end of a path. -/
theorem follow_append_singleton {m : Memory Node} {i k : Word} {q : List Bool} {nd : Node}
    (h : follow m i q = some k) (hk : m.read k.toNat = some nd) (hleaf : nd.leaf = false) (b : Bool) :
    follow m i (q ++ [b]) = some (if b then nd.right else nd.left) := by
  induction q generalizing i with
  | nil =>
    simp only [follow, Option.some.injEq] at h
    subst h
    simp [follow, hk, hleaf]
  | cons c q ih =>
    simp only [List.cons_append, follow] at h ⊢
    cases hr : m.read i.toNat with
    | none => simp [hr] at h
    | some d =>
      cases hd : d.leaf with
      | true => simp [hr, hd] at h
      | false => simp only [hr, hd] at h ⊢; exact ih h

/-- From an internal node a path goes on at the child its first digit names. -/
theorem follow_cons {m : Memory Node} {i : Word} {nd : Node} (hi : m.read i.toNat = some nd)
    (hleaf : nd.leaf = false) (b : Bool) (q : List Bool) :
    follow m i (b :: q) = follow m (if b then nd.right else nd.left) q := by
  simp [follow, hi, hleaf]

/-- A path from a leaf is empty. -/
theorem follow_of_leaf {m : Memory Node} {i k : Word} {nd : Node} {q : List Bool} (hi : m.read i.toNat = some nd)
    (hleaf : nd.leaf = true) (h : follow m i q = some k) : q = [] ∧ k = i := by
  cases q with
  | nil => simp only [follow, Option.some.injEq] at h; exact ⟨rfl, h.symm⟩
  | cons b q => simp [follow, hi, hleaf] at h

/-! ### The tree (R51) -/

/-- What the walk needs of the tree: R51 but for the weights. -/
structure Tree (s : State) : Prop where
  sizes : TreeSizes s
  listed : TreeListed s
  leafFields : TreeLeaves s
  internals : TreeInternals s
  owned : TreeOwned s

theorem TreeInv.tree {s : State} (h : TreeInv s) (hvalid : s.treeValid = true) : Tree s := by
  obtain ⟨hsizes, hlisted, hleaves, hinternals, howned, -⟩ := h hvalid
  exact ⟨hsizes, hlisted, hleaves, hinternals, howned⟩

section Tree
variable {s : State}

theorem Tree.read (h : Tree s) {i : Nat} (hi : i < 2 * leaves s - 1) : s.node.read i = some (nodeAt s i) :=
  read_of_listed (h.listed i hi)

theorem Tree.leaf_of_lt (h : Tree s) {i : Nat} (hi : i < leaves s) : (nodeAt s i).leaf = true := by
  obtain ⟨hleaf, -⟩ := h.leafFields.1 i hi
  exact hleaf

theorem Tree.root_toNat (h : Tree s) : s.root.toNat = 2 * leaves s - 2 := by
  obtain ⟨-, -, -, hroot⟩ := h.sizes
  exact hroot

/-- A child of an internal node stands below it. -/
theorem Tree.child_lt (h : Tree s) {i j : Nat} (hi : i < 2 * leaves s - 1) (hn : leaves s ≤ i)
    (hchild : isChild s j i) : j < i := by
  obtain ⟨-, -, hl, hr, -⟩ := h.internals i hi hn
  rcases hchild with hc | hc <;> omega

/-- Different leaves stand for different symbols. -/
theorem Tree.sym_inj (h : Tree s) {i j : Nat} (hi : i < leaves s) (hj : j < leaves s)
    (hsym : (nodeAt s i).sym = (nodeAt s j).sym) : i = j := by
  rcases Nat.lt_trichotomy i j with hlt | heq | hlt
  · exact absurd hsym (h.leafFields.2 j hj i hlt).ne
  · exact heq
  · exact absurd hsym (h.leafFields.2 i hi j hlt).ne'

/-- Every node but the root has an owner. -/
theorem Tree.exists_owner (h : Tree s) {j : Nat} (hj : j < 2 * leaves s - 2) :
    ∃ i, i < 2 * leaves s - 1 ∧ leaves s ≤ i ∧ isChild s j i := by
  obtain ⟨i, hi⟩ := List.exists_mem_of_length_pos (l := List.filter _ _) (by rw [h.owned j hj]; exact Nat.one_pos)
  rw [List.mem_filter, List.mem_range, Bool.and_eq_true, decide_eq_true_eq, decide_eq_true_eq] at hi
  exact ⟨i, hi⟩

/-- The index of a node fits into a word (R45). -/
theorem Tree.wordOf_toNat (h : Tree s) {i : Nat} (hi : i < 2 * leaves s - 1) : (wordOf i).toNat = i := by
  have hroot := h.root_toNat
  have hbound := s.root.isLt
  exact Machine.wordOf_toNat (by omega)

theorem wordOf_of_toNat {w : Word} {i : Nat} (h : w.toNat = i) : w = wordOf i := by
  rw [← h]; simp [wordOf]

/-- Every node is reached from the root: from its owner by one more digit. -/
theorem Tree.exists_path (h : Tree s) (j : Nat) (hj : j < 2 * leaves s - 1) :
    ∃ q, follow s.node s.root q = some (wordOf j) := by
  by_cases hroot : j = 2 * leaves s - 2
  · exact ⟨[], congrArg some (wordOf_of_toNat (h.root_toNat.trans hroot.symm))⟩
  · obtain ⟨i, hi, hn, hchild⟩ := h.exists_owner (j := j) (by omega)
    have hlt := h.child_lt hi hn hchild
    obtain ⟨q, hq⟩ := h.exists_path i hi
    have hread : s.node.read (wordOf i).toNat = some (nodeAt s i) := by rw [h.wordOf_toNat hi, h.read hi]
    obtain ⟨hleaf, -⟩ := h.internals i hi hn
    have hstep := follow_append_singleton hq hread hleaf
    rcases hchild with hc | hc
    · exact ⟨q ++ [false], (hstep false).trans (congrArg some (wordOf_of_toNat hc))⟩
    · exact ⟨q ++ [true], (hstep true).trans (congrArg some (wordOf_of_toNat hc))⟩
termination_by 2 * leaves s - 1 - j

/-! ### The walk (R145) -/

/-- What a walk from node `i` does to the table: it adds root paths of leaves below `i`, each behind the path
walked so far, and leaves no such leaf out. -/
structure Walked (s : State) (room : Nat) (i : Word) (u t : State) : Prop where
  entries : ∀ e ∈ t.code, e ∈ u.code ∨ ∃ l q, l < leaves s ∧ follow s.node i q = some (wordOf l) ∧
    q.length ≤ room ∧ e = ((nodeAt s l).sym, u.work.path ++ q)
  reached : ∀ l, l < leaves s → ∀ q, follow s.node i q = some (wordOf l) →
    (t.code.read (nodeAt s l).sym).isSome = true
  kept : ∀ x, (u.code.read x).isSome = true → (t.code.read x).isSome = true

theorem walk_of_leaf (room : Nat) {i : Word} {u : State} (h : (readNode i.toNat u).1.leaf = true) :
    walk room i u = some (recordCode (readNode i.toNat u).1.sym (readNode i.toNat u).2) := by
  cases room <;> simp [walk, h]

/-- At a leaf the path walked so far is recorded. -/
theorem Tree.walked_leaf (h : Tree s) (room : Nat) {i : Word} {u : State} (hi : i.toNat < leaves s)
    (hpath : u.work.path.length = u.work.depth) :
    Walked s room i u (recordCode (nodeAt s i.toNat).sym u) := by
  have hlt : ∀ l, l < leaves s → l < 2 * leaves s - 1 := fun l hl => by omega
  have hcode : (recordCode (nodeAt s i.toNat).sym u).code = u.code.write (nodeAt s i.toNat).sym u.work.path := by
    rw [recordCode_code, ← hpath, List.take_length]
  refine ⟨fun e he => ?_, fun l hl q hq => ?_, fun x hx => ?_⟩
  · rw [hcode] at he
    rcases Memory.mem_write he with rfl | he
    · exact .inr ⟨i.toNat, [], hi, congrArg some (wordOf_of_toNat rfl), Nat.zero_le _, by rw [List.append_nil]⟩
    · exact .inl he
  · obtain ⟨-, hl'⟩ := follow_of_leaf (h.read (hlt _ hi)) (h.leaf_of_lt hi) hq
    rw [hcode, ← hl', h.wordOf_toNat (hlt l hl), Memory.read_write_same]
    rfl
  · rw [hcode, Memory.read_write]
    split
    · rfl
    · exact hx

/-- At an internal node the walks of the two children make the walk. -/
theorem Tree.walked_internal (h : Tree s) {room : Nat} {i : Word} {u u' t v : State} (hi : i.toNat < 2 * leaves s - 1)
    (hn : leaves s ≤ i.toNat) (hu : u'.code = u.code) (hpath : u'.work.path = u.work.path ++ [false])
    (hl : Walked s room (nodeAt s i.toNat).left u' t)
    (hpath' : (turnRight t).work.path = u.work.path ++ [true])
    (hr : Walked s room (nodeAt s i.toNat).right (turnRight t) v) : Walked s (room + 1) i u (ascend v) := by
  have hread := h.read hi
  obtain ⟨hleaf, -⟩ := h.internals _ hi hn
  have hcons := follow_cons hread hleaf
  refine ⟨fun e he => ?_, fun l hlt q hq => ?_, fun x hx => hr.kept x (hl.kept x (hu ▸ hx))⟩
  · rcases hr.entries e he with he | ⟨l, q, hlt, hq, hlen, rfl⟩
    · rcases hl.entries e he with he | ⟨l, q, hlt, hq, hlen, rfl⟩
      · exact .inl (hu ▸ he)
      · exact .inr ⟨l, false :: q, hlt, (hcons false q).trans hq, Nat.succ_le_succ hlen, by simp [hpath]⟩
    · refine .inr ⟨l, true :: q, hlt, (hcons true q).trans hq, Nat.succ_le_succ hlen, ?_⟩
      rw [hpath', List.append_assoc]; rfl
  · cases q with
    | nil =>
      simp only [follow, Option.some.injEq] at hq
      rw [hq, h.wordOf_toNat (by omega)] at hn
      omega
    | cons b q =>
      rw [hcons] at hq
      cases b with
      | false => exact hr.kept _ (hl.reached l hlt q hq)
      | true => exact hr.reached l hlt q hq

/-- With room for the internal nodes at or below `i` the walk from `i` comes to an end. -/
theorem Tree.exists_walk (h : Tree s) (room : Nat) {i : Word} {u : State} (hnode : u.node = s.node)
    (hi : i.toNat < 2 * leaves s - 1) (hroom : i.toNat < leaves s + room)
    (hpath : u.work.path.length = u.work.depth) : ∃ t, walk room i u = some t ∧ Walked s room i u t := by
  have hread : ∀ u : State, u.node = s.node → readNode i.toNat u = (nodeAt s i.toNat, u) :=
    fun u hu => readNode_of_read (hu ▸ h.read hi)
  by_cases hn : i.toNat < leaves s
  · refine ⟨_, walk_of_leaf room ?_, ?_⟩
    · rw [hread u hnode]; exact h.leaf_of_lt hn
    · rw [hread u hnode]; exact h.walked_leaf room hn hpath
  · obtain ⟨hleaf, -, hl, hr, -⟩ := h.internals i.toNat hi (Nat.le_of_not_lt hn)
    cases room with
    | zero => omega
    | succ room =>
      obtain ⟨t, ht, hwalkt⟩ := h.exists_walk room (i := (nodeAt s i.toNat).left)
        (u := descendLeft (nodeAt s i.toNat).right u) hnode (by omega) (by omega) (by simp [hpath])
      obtain ⟨hframe, -, hpatht, hdeptht, hstkt⟩ := walk_frame _ _ _ _ ht
      simp only [descendLeft_work] at hpatht hdeptht hstkt
      have hturn : (turnRight t).work.path = u.work.path ++ [true] := by simp [hpatht]
      obtain ⟨v, hv, hwalkv⟩ := h.exists_walk room (i := (nodeAt s i.toNat).right) (u := turnRight t)
        (by rw [turnRight_node, hframe]; exact hnode) (by omega) (by omega) (by rw [hturn]; simp [hdeptht, hpath])
      refine ⟨ascend v, ?_, h.walked_internal (u' := descendLeft (nodeAt s i.toNat).right u) hi (Nat.le_of_not_lt hn)
        rfl rfl hwalkt hturn hwalkv⟩
      have hpending : pendingRight t = (nodeAt s i.toNat).right := by simp [pendingRight, hstkt]
      simp only [walk, hread u hnode, hleaf, Bool.false_eq_true, if_false, ht, hpending, hv]

end Tree

/-! ### GENCODES (R140) -/

theorem leaves_of_nleaf_eq_one {s : State} (h : s.nleaf = 1#32) : leaves s = 1 := by
  simp [leaves, h]

/-- Under a tree of two leaves or more GENCODES is the walk from the root, and it comes to an end: no path is longer
than the tree has internal nodes (R146 (c)). -/
theorem Tree.gencodesEngine_walk {s : State} (h : Tree s) (hvalid : s.treeValid = true) (hone : s.nleaf ≠ 1#32) :
    ∃ t, gencodesEngine s = some (codesDone t) ∧ Walked s s.cfg.codeMax s.root (freshCodes s) t := by
  obtain ⟨hpos, hmax, -, hroot⟩ := h.sizes
  have hlen : leaves s - 1 ≤ s.cfg.codeMax := (Nat.sub_le_sub_right hmax 1).trans (le_max_right _ _)
  obtain ⟨t, ht, hwalk⟩ := h.exists_walk s.cfg.codeMax (i := s.root) (u := freshCodes s) rfl (by omega) (by omega) rfl
  refine ⟨t, ?_, hwalk⟩
  have hfresh : (freshCodes s).nleaf ≠ 1#32 := hone
  simp only [gencodesEngine, hvalid, Bool.true_eq_false, if_false, hfresh]
  exact congrArg (Option.map codesDone) ht

/-- Under the single-symbol tree GENCODES records "0" for its symbol (R143). -/
theorem Tree.gencodesEngine_single {s : State} (h : Tree s) (hvalid : s.treeValid = true) (hone : s.nleaf = 1#32) :
    gencodesEngine s = some (codesDone (writeCode (nodeAt s 0).sym [false] (freshCodes s))) := by
  have hn := leaves_of_nleaf_eq_one hone
  have hroot : s.root.toNat = 0 := by rw [h.root_toNat, hn]
  have hread : readNode s.root.toNat (freshCodes s) = (nodeAt s 0, freshCodes s) :=
    readNode_of_read (by rw [hroot]; exact h.read (by omega))
  have hfresh : (freshCodes s).nleaf = 1#32 := hone
  have hfresh' : (freshCodes s).root = s.root := rfl
  simp only [gencodesEngine, hvalid, Bool.true_eq_false, if_false, hfresh, if_true, singleCode, hfresh', hread]

/-- With the tree invariant GENCODES does not stop. -/
theorem TreeInv.exists_gencodesEngine {s : State} (h : TreeInv s) : ∃ t, gencodesEngine s = some t := by
  by_cases hvalid : s.treeValid = true
  · by_cases hone : s.nleaf = 1#32
    · exact ⟨_, (h.tree hvalid).gencodesEngine_single hvalid hone⟩
    · obtain ⟨t, ht, -⟩ := (h.tree hvalid).gencodesEngine_walk hvalid hone
      exact ⟨_, ht⟩
  · exact ⟨_, if_pos (Bool.eq_false_of_not_eq_true hvalid)⟩

/-! ### O30 -/

theorem accepted_completes {s : State} {run : State → Result} (h : ∃ t, run s = .next t) :
    ∃ t, accepted s run = .next t := by
  unfold accepted
  split
  · exact ⟨_, rfl⟩
  · exact h

theorem exec_completes {s : State} (h : TreeInv s) (i : Instr) : ∃ t, exec i s = .next t := by
  cases i with
  | nop | clrerr | clear => exact ⟨_, rfl⟩
  | count => exact accepted_completes (run := fun s => finish (countEngine s)) ⟨_, rfl⟩
  | build => exact accepted_completes (run := fun s => finish (buildEngine s)) ⟨_, rfl⟩
  | encode => exact accepted_completes (run := fun s => finish (encodeEngine s)) ⟨_, rfl⟩
  | decode => exact accepted_completes (run := fun s => finish (decodeEngine s)) ⟨_, rfl⟩
  | gencodes =>
    obtain ⟨t, ht⟩ := h.exists_gencodesEngine
    simp only [exec, execGencodes]
    exact accepted_completes ⟨answerWrite t, by simp only [ht]; rfl⟩

theorem command_completes {s : State} (h : TreeInv s) (v : Word) : ∃ t, command exec v s = .next t := by
  unfold command
  split
  · exact exec_completes h _
  · exact accepted_completes ⟨_, rfl⟩

/-- Settles O30: GENCODES alone could stop, and under the tree invariant its walk ends within `CODE_MAX` digits. -/
theorem everyStepCompletes : Obligations.EveryStepCompletes := by
  unfold Obligations.EveryStepCompletes
  refine ⟨fun s h => ?_, fun i s h => exec_completes h i⟩
  cases hhost : s.host with
  | nil => exact ⟨s, step_idle hhost⟩
  | cons e es =>
    rw [step_event hhost]
    cases e with
    | read off width => exact ⟨_, rfl⟩
    | write off width v =>
      simp only [onEvent, hostWrite]
      split
      · exact ⟨_, rfl⟩
      · exact command_completes (s := { s with host := es }) h v
      · exact ⟨_, rfl⟩
    | reset => exact ⟨_, rfl⟩
    | cutByReset v => exact ⟨_, rfl⟩

/-! ### O29 -/

/-- R52 of a table, said with the tree of `s`: the entries are the leaves' symbols, each with its root path, or "0"
for a single leaf. -/
structure TableOf (s : State) (m : Memory Code) : Prop where
  symbols : ∀ e ∈ m, ∃ l, l < leaves s ∧ (nodeAt s l).sym = e.1
  codes : ∀ l, l < leaves s → ∃ c, m.read (nodeAt s l).sym = some c ∧ 1 ≤ c.length ∧ c.length ≤ s.cfg.codeMax ∧
    (leaves s = 1 → c = [false]) ∧ (2 ≤ leaves s → follow s.node s.root c = some (wordOf l))

theorem TableOf.codeInv {s t : State} (h : TableOf s t.code) (hvalid : t.treeValid = true) (hnode : t.node = s.node)
    (hnleaf : t.nleaf = s.nleaf) (hroot : t.root = s.root) (hcfg : t.cfg = s.cfg) : CodeInv t := by
  have hat : ∀ l, nodeAt t l = nodeAt s l := fun l => by rw [nodeAt, hnode]
  intro _
  simp only [codeOfLeaf, leaves, hat, hnode, hnleaf, hroot, hcfg]
  refine ⟨hvalid, h.symbols, fun l hl => ?_⟩
  obtain ⟨c, hc, hpos, hmax, hone, htwo⟩ := h.codes l hl
  rw [hc]
  exact ⟨rfl, hpos, hmax, fun h1 => congrArg some (hone h1), htwo⟩

/-- The one entry of the single-symbol tree (R143). -/
theorem tableOf_single {s : State} (hn : leaves s = 1) : TableOf s [((nodeAt s 0).sym, [false])] where
  symbols e he := ⟨0, by omega, by rw [List.mem_singleton.1 he]⟩
  codes l hl := by
    obtain rfl : l = 0 := by omega
    exact ⟨[false], by simp [Memory.read], le_rfl, le_max_left _ _, fun _ => rfl, fun h2 => by omega⟩

/-- What the walk from the root leaves in a fresh table (R145). -/
theorem Tree.tableOf_walked {s u t : State} (h : Tree s) (hn : leaves s ≠ 1) (hcode : u.code = [])
    (hpath : u.work.path = []) (hwalk : Walked s s.cfg.codeMax s.root u t) : TableOf s t.code := by
  have hentries : ∀ e ∈ t.code, ∃ l q, l < leaves s ∧ follow s.node s.root q = some (wordOf l) ∧
      q.length ≤ s.cfg.codeMax ∧ e = ((nodeAt s l).sym, q) := by
    intro e he
    have hnew := hwalk.entries e he
    rw [hcode, hpath] at hnew
    exact hnew.resolve_left List.not_mem_nil
  refine ⟨fun e he => ?_, fun l hl => ?_⟩
  · obtain ⟨l, q, hl, -, -, rfl⟩ := hentries e he
    exact ⟨l, hl, rfl⟩
  · obtain ⟨q, hq⟩ := h.exists_path l (by omega)
    obtain ⟨c, hc⟩ := Option.isSome_iff_exists.1 (hwalk.reached l hl q hq)
    obtain ⟨l', q', hl', hq', hlen, heq⟩ := hentries _ (Memory.mem_of_read hc)
    obtain ⟨hsym, rfl⟩ := Prod.mk.inj heq
    obtain rfl := h.sym_inj hl hl' hsym
    refine ⟨c, hc, ?_, hlen, fun h1 => absurd h1 hn, fun _ => hq'⟩
    cases c with
    | cons b c => simp
    | nil =>
      simp only [follow, Option.some.injEq] at hq'
      have hroot := h.root_toNat
      rw [hq', h.wordOf_toNat (by omega)] at hroot
      omega

/-- The table that GENCODES leaves meets R52. -/
theorem gencodesEngine_codeInv {s t : State} (h : TreeInv s) (hvalid : s.treeValid = true)
    (ht : gencodesEngine s = some t) : CodeInv t := by
  have htree := h.tree hvalid
  have htable : TableOf s t.code := by
    by_cases hone : s.nleaf = 1#32
    · rw [htree.gencodesEngine_single hvalid hone, Option.some.injEq] at ht
      subst ht
      exact tableOf_single (leaves_of_nleaf_eq_one hone)
    · obtain ⟨u, hu, hwalk⟩ := htree.gencodesEngine_walk hvalid hone
      rw [hu, Option.some.injEq] at ht
      subst ht
      exact (htree.tableOf_walked (fun hn => hone (BitVec.eq_of_toNat_eq hn)) rfl rfl hwalk :)
  rcases gencodesEngine_cases ht with ⟨hfalse, -⟩ | ⟨-, hframe⟩
  · simp [hvalid] at hfalse
  · refine htable.codeInv ?_ ?_ ?_ ?_ ?_ <;> rw [hframe]
    exact hvalid

theorem exec_keeps_codeInv {i : Instr} {s t : State} (htree : TreeInv s) (h : CodeInv s)
    (ht : exec i s = .next t) : CodeInv t := by
  refine exec_keeps (P := CodeInv) ht h (fun u r hu => hu) h ?clear ?count ?build ?gencodes ?encode ?decode
  case clear => exact fun hvalid => absurd hvalid Bool.false_ne_true
  case count => rw [countEngine_frame]; exact h
  case build =>
    intro hvalid
    rcases buildEngine_cases s with ⟨hb, -⟩ | ⟨-, hb, -⟩ <;> rw [hb] at hvalid <;>
      exact absurd hvalid Bool.false_ne_true
  case gencodes =>
    intro u hu
    rcases gencodesEngine_cases hu with ⟨-, rfl⟩ | ⟨hvalid, -⟩
    · exact h
    · exact gencodesEngine_codeInv htree hvalid hu
  case encode => rcases encodeEngine_cases s with ⟨-, he⟩ | ⟨-, he, -⟩ | ⟨-, he⟩ <;> rw [he] <;> exact h
  case decode => rcases decodeEngine_cases s with ⟨-, hd⟩ | ⟨-, hd, -⟩ | ⟨-, hd⟩ <;> rw [hd] <;> exact h

/-- Settles O29: GENCODES leaves the root paths, BUILD and CLEAR withdraw the table, and nothing else touches it. -/
theorem everyStepKeepsTheCodeInvariants : Obligations.EveryStepKeepsTheCodeInvariants := by
  unfold Obligations.EveryStepKeepsTheCodeInvariants
  intro s t _ htree h ht
  refine step_keeps (P := CodeInv) ht h (fun u es r d hu => hu) ?write ?command (fun e he => h) ?reset
  case write => exact fun r v es u hu => by rw [regWrite_frame hu]; exact h
  case command => exact fun i es u hu => exec_keeps_codeInv (s := { s with host := es }) htree h hu
  case reset => exact fun c es d hvalid => absurd hvalid Bool.false_ne_true

end Sys2Proof.Machine
end

section
/-! PROOF. O7, O23 and O58: the writers of the latch, of the flags and of the other registers, by the frame of each
engine and of a register write. -/

namespace Sys2Proof.Machine

/-! ### The latch (R209, R212) -/

/-- With an error latched a command leaves the latch, but for CLRERR and CLEAR, which clear it. -/
theorem exec_err_of_latched {i : Instr} {s t : State} (hl : s.latched) (h : exec i s = .next t) :
    t.err = s.err ∨ (t.err = ErrLatch.none ∧ (i = .clrerr ∨ i = .clear)) := by
  rcases exec_cases h with ⟨-, rfl⟩ | ⟨rfl, rfl⟩ | ⟨rfl, rfl⟩ | ⟨-, -, rfl⟩ | ⟨hclear, -⟩
  · exact .inl rfl
  · exact .inr ⟨rfl, .inl rfl⟩
  · exact .inr ⟨rfl, .inr rfl⟩
  · exact .inl rfl
  · exact absurd hclear hl

/-- With an error latched a word that is no command is refused (R211). -/
theorem illegalCommand_of_latched {v : Word} {s t : State} (hl : s.latched) (h : illegalCommand v s = .next t) :
    t = refuseWrite s := by
  rcases accepted_next h with ⟨-, ht⟩ | ⟨hclear, -⟩
  · exact ht
  · exact absurd hclear hl

/-- Settles O7, by the event of the step. -/
theorem latchedErrorStaysUntilAcknowledged : Obligations.LatchedErrorStaysUntilAcknowledged := by
  unfold Obligations.LatchedErrorStaysUntilAcknowledged
  intro s t hl h
  rcases step_cases h with ⟨-, rfl⟩ | ⟨e, es, hhost, hcase⟩
  · exact .inl rfl
  · simp only [hhost, List.head?_cons]
    rcases hcase with ⟨off, width, -, rfl⟩ | ⟨off, width, v, -, rfl⟩ | ⟨r, v, u, -, -, hu, rfl⟩ |
      ⟨v, i, rfl, hdec, hi⟩ | ⟨v, x, -, -, hx⟩ | ⟨rfl, rfl⟩ | ⟨v, rfl, rfl⟩
    · rw [hostRead_state]; exact .inl rfl
    · exact .inl rfl
    · rw [regWrite_frame hu]; exact .inl rfl
    · rw [eq_encode_of_decodeWord hdec]
      rcases exec_err_of_latched (s := { s with host := es }) hl hi with hkept | ⟨hnone, rfl | rfl⟩
      · exact .inl hkept
      · exact .inr ⟨hnone, .inl rfl⟩
      · exact .inr ⟨hnone, .inr (.inl rfl)⟩
    · rw [illegalCommand_of_latched (s := { s with host := es }) hl hx]; exact .inl rfl
    · exact .inr ⟨rfl, .inr (.inr (.inl rfl))⟩
    · exact .inr ⟨rfl, .inr (.inr (.inr ⟨v, rfl⟩))⟩

/-! ### The flags and the other registers (R25 to R39) -/

/-- From `s` to `t` no register and no flag has changed but those that command `i` writes, where `i` is not CLEAR. -/
def RegistersOfCommand (i : Instr) (s t : State) : Prop :=
  (t.olen ≠ s.olen → i = .decode) ∧ (t.nleaf ≠ s.nleaf ∨ t.nnode ≠ s.nnode ∨ t.root ≠ s.root → i = .build) ∧
  (t.cur ≠ s.cur → i = .build ∨ i = .decode) ∧ (t.blen ≠ s.blen → i = .encode) ∧ t.tlen = s.tlen ∧
  t.sel = s.sel ∧ t.idx = s.idx ∧ t.sub = s.sub ∧ (t.treeValid ≠ s.treeValid → i = .build) ∧
  (t.codesValid ≠ s.codesValid → i = .build ∨ i = .gencodes)

/-- Every command but CLEAR writes its own registers alone, by the frame of its engine. -/
theorem exec_registers {i : Instr} {s t : State} (h : exec i s = .next t) (hi : i ≠ .clear) :
    RegistersOfCommand i s t := by
  rcases exec_cases h with ⟨rfl, rfl⟩ | ⟨rfl, rfl⟩ | ⟨rfl, rfl⟩ | ⟨-, -, rfl⟩ |
    ⟨-, ⟨rfl, rfl⟩ | ⟨rfl, rfl⟩ | ⟨rfl, u, hu, rfl⟩ | ⟨rfl, rfl⟩ | ⟨rfl, rfl⟩⟩
  · simp [RegistersOfCommand]
  · simp [RegistersOfCommand]
  · exact absurd rfl hi
  · simp [RegistersOfCommand]
  · rw [countEngine_frame]; simp [RegistersOfCommand]
  · rcases buildEngine_cases s with ⟨hb, -⟩ | ⟨-, hb, -⟩ <;> rw [hb] <;> simp [RegistersOfCommand]
  · rcases gencodesEngine_cases hu with ⟨-, rfl⟩ | ⟨-, hg⟩
    · simp [RegistersOfCommand]
    · rw [hg]; simp [RegistersOfCommand]
  · rcases encodeEngine_cases s with ⟨-, he⟩ | ⟨-, he, -⟩ | ⟨-, he⟩ <;> rw [he] <;> simp [RegistersOfCommand]
  · rcases decodeEngine_cases s with ⟨-, hd⟩ | ⟨-, hd, -⟩ | ⟨-, hd⟩ <;> rw [hd] <;> simp [RegistersOfCommand]

/-- From `s` to `t` no register that the block writes and no flag has changed, but for the latch. -/
def KeepsBlockRegisters (s t : State) : Prop :=
  t.olen = s.olen ∧ t.nleaf = s.nleaf ∧ t.nnode = s.nnode ∧ t.root = s.root ∧ t.cur = s.cur ∧
  t.treeValid = s.treeValid ∧ t.codesValid = s.codesValid

/-- From `s` to `t` no register that the host writes has changed. -/
def KeepsHostRegisters (s t : State) : Prop :=
  t.blen = s.blen ∧ t.tlen = s.tlen ∧ t.sel = s.sel ∧ t.idx = s.idx ∧ t.sub = s.sub

/-- The same but for register `r`. -/
def RegistersOfHost (r : Reg) (s t : State) : Prop :=
  (t.blen ≠ s.blen → r = .blen) ∧ (t.tlen ≠ s.tlen → r = .tlen) ∧ (t.sel ≠ s.sel → r = .sel) ∧
  (t.idx ≠ s.idx → r = .idx) ∧ (t.sub ≠ s.sub → r = .sub)

theorem regWrite_registers {r : Reg} {v : Word} {s t : State} (h : regWrite r v s = some t) :
    RegistersOfHost r s t := by
  rcases regWrite_cases h with ⟨rfl, rfl⟩ | ⟨rfl, rfl⟩ | ⟨rfl, rfl⟩ | ⟨rfl, rfl⟩ | ⟨rfl, rfl⟩ | ⟨-, hd⟩
  case inr.inr.inr.inr.inr =>
    rcases dataWrite_cases hd with ⟨-, -, -, rfl⟩ | ⟨-, -, -, rfl⟩ | ⟨-, -, -, rfl⟩ <;> simp [RegistersOfHost]
  all_goals simp [RegistersOfHost]

/-- The step takes the reset input. -/
def TakesReset (s : State) : Prop :=
  s.host.head? = some .reset ∨ ∃ v, s.host.head? = some (.cutByReset v)

/-- Everything a step other than reset can do to the registers: nothing, what a register write does, what the latch
of IllegalCommand is, or what a command does. -/
theorem step_registers {s t : State} (h : step s = .next t) :
    TakesReset s ∨
    (KeepsBlockRegisters s t ∧ KeepsHostRegisters s t ∧ t.err = s.err) ∨
    (∃ r v, s.host.head? = some (.write r.offset 32 v) ∧ KeepsBlockRegisters s t ∧ RegistersOfHost r s t ∧
      t.err = s.err) ∨
    (∃ v, s.host.head? = some (.write 0x00 32 v) ∧ KeepsBlockRegisters s t ∧ KeepsHostRegisters s t) ∨
    (∃ i, s.host.head? = some (.write 0x00 32 (encode i)) ∧ (i = .clear ∨ RegistersOfCommand i s t)) := by
  have hblock : KeepsBlockRegisters s s := ⟨rfl, rfl, rfl, rfl, rfl, rfl, rfl⟩
  have hhostRegs : KeepsHostRegisters s s := ⟨rfl, rfl, rfl, rfl, rfl⟩
  rcases step_cases h with ⟨-, rfl⟩ | ⟨e, es, hhost, hcase⟩
  · exact .inr (.inl ⟨hblock, hhostRegs, rfl⟩)
  · simp only [TakesReset, hhost, List.head?_cons]
    rcases hcase with ⟨off, width, -, rfl⟩ | ⟨off, width, v, -, rfl⟩ | ⟨r, v, u, rfl, -, hu, rfl⟩ |
      ⟨v, i, rfl, hdec, hi⟩ | ⟨v, x, rfl, -, hx⟩ | ⟨rfl, -⟩ | ⟨v, rfl, -⟩
    · rw [hostRead_state]; exact .inr (.inl ⟨hblock, hhostRegs, rfl⟩)
    · exact .inr (.inl ⟨hblock, hhostRegs, rfl⟩)
    · refine .inr (.inr (.inl ⟨r, v, rfl, ?_, (regWrite_registers hu :), ?_⟩)) <;> rw [regWrite_frame hu]
      · exact hblock
      · rfl
    · refine .inr (.inr (.inr (.inr ⟨i, by rw [eq_encode_of_decodeWord hdec], ?_⟩)))
      exact (em (i = .clear)).imp id fun hne => (exec_registers hi hne :)
    · refine .inr (.inr (.inr (.inl ⟨v, rfl, ?_⟩)))
      rcases illegalCommand_next hx with rfl | rfl <;> exact ⟨hblock, hhostRegs⟩
    · exact .inl (.inl rfl)
    · exact .inl (.inr ⟨v, rfl⟩)

/-- Settles O23: no register write reaches a flag, and of the commands BUILD and GENCODES alone, CLEAR apart. -/
theorem flagsChangeOnlyByTheirCommands : Obligations.FlagsChangeOnlyByTheirCommands := by
  unfold Obligations.FlagsChangeOnlyByTheirCommands
  intro s t h
  have kept : ∀ {p q : Prop}, KeepsBlockRegisters s t →
      (t.treeValid ≠ s.treeValid → p) ∧ (t.codesValid ≠ s.codesValid → q) :=
    fun ⟨_, _, _, _, _, htree, hcodes⟩ => ⟨absurd htree, absurd hcodes⟩
  rcases step_registers h with hreset | ⟨hkept, -⟩ | ⟨r, v, -, hkept, -⟩ | ⟨v, -, hkept, -⟩ |
    ⟨i, hhost, rfl | ⟨-, -, -, -, -, -, -, -, htree, hcodes⟩⟩
  · exact ⟨fun _ => .inr (.inr hreset), fun _ => .inr (.inr (.inr hreset))⟩
  · exact kept hkept
  · exact kept hkept
  · exact kept hkept
  · exact ⟨fun _ => .inr (.inl hhost), fun _ => .inr (.inr (.inl hhost))⟩
  · refine ⟨fun hne => ?_, fun hne => ?_⟩
    · obtain rfl := htree hne
      exact .inl hhost
    · rcases hcodes hne with rfl | rfl
      · exact .inl hhost
      · exact .inr (.inl hhost)

/-- Settles O58, by what each command and each register write may write. -/
theorem registersChangeOnlyByTheirWriters : Obligations.RegistersChangeOnlyByTheirWriters := by
  unfold Obligations.RegistersChangeOnlyByTheirWriters
  intro s t h hreset hcut hclear
  rcases step_registers h with (hr | ⟨v, hc⟩) |
    ⟨⟨holen, hnleaf, hnnode, hroot, hcur, -⟩, ⟨hblen, htlen, hsel, hidx, hsub⟩, herr⟩ |
    ⟨r, v, hhost, ⟨holen, hnleaf, hnnode, hroot, hcur, -⟩, ⟨hblen, htlen, hsel, hidx, hsub⟩, herr⟩ |
    ⟨v, hhost, ⟨holen, hnleaf, hnnode, hroot, hcur, -⟩, hblen, htlen, hsel, hidx, hsub⟩ |
    ⟨i, hhost, rfl | ⟨holen, htree, hcur, hblen, htlen, hsel, hidx, hsub, -⟩⟩
  · exact absurd hr hreset
  · exact absurd hc (hcut v)
  · exact ⟨absurd holen, fun hne => by simp [hnleaf, hnnode, hroot] at hne, absurd hcur, absurd hblen, absurd htlen,
      absurd hsel, absurd hidx, absurd hsub, absurd herr⟩
  · have wrote : ∀ {r'}, r = r' → ∃ v, s.host.head? = some (.write r'.offset 32 v) := fun hr => ⟨v, hr ▸ hhost⟩
    exact ⟨absurd holen, fun hne => by simp [hnleaf, hnnode, hroot] at hne, absurd hcur,
      fun hne => .inr (wrote (hblen hne)), fun hne => wrote (htlen hne), fun hne => wrote (hsel hne),
      fun hne => wrote (hidx hne), fun hne => wrote (hsub hne), absurd herr⟩
  · exact ⟨absurd holen, fun hne => by simp [hnleaf, hnnode, hroot] at hne, absurd hcur, absurd hblen, absurd htlen,
      absurd hsel, absurd hidx, absurd hsub, fun _ => ⟨v, hhost⟩⟩
  · exact absurd hhost hclear
  · have wrote : ∀ {j}, i = j → s.host.head? = some (.write 0x00 32 (encode j)) := fun hi => hi ▸ hhost
    exact ⟨fun hne => wrote (holen hne), fun hne => wrote (htree hne), fun hne => (hcur hne).imp wrote wrote,
      fun hne => .inl (wrote (hblen hne)), absurd htlen, absurd hsel, absurd hidx, absurd hsub,
      fun _ => ⟨_, hhost⟩⟩

end Sys2Proof.Machine
end

section
/-! PROOF. O10, O11 and O13 to O16: the reset input, and the reads and writes of the registers. -/

namespace Sys2Proof.Machine

/-! ### Reset (R230) -/

theorem step_reset {s : State} {e : HostEvent} {es : List HostEvent} (h : s.host = e :: es)
    (he : e = .reset ∨ ∃ v, e = .cutByReset v) : step s = .next (State.resetOf s.cfg es s.draws) := by
  rw [step_event h]
  rcases he with rfl | ⟨v, rfl⟩ <;> rfl

/-- Settles O10: what the reset input leaves is the reset state. -/
theorem resetInputLeavesTheResetState : Obligations.ResetInputLeavesTheResetState := by
  unfold Obligations.ResetInputLeavesTheResetState
  intro s e es he hhost
  refine ⟨_, step_reset hhost he, rfl, rfl, rfl, rfl, rfl, rfl, rfl, rfl, rfl, rfl, rfl, rfl, rfl,
    fun k => ⟨rfl, rfl, rfl, rfl, rfl, rfl⟩, rfl, rfl⟩

/-! ### Register reads and writes (R61) -/

/-- A read at a register's offset is answered with what the register reads as. -/
theorem step_read {s u : State} {es : List HostEvent} (r : Reg) {w : Word} (h : s.host = .read r.offset 32 :: es)
    (hr : regRead r { s with host := es } = some (w, u)) : step s = .next (answerRead w u) := by
  rw [step_event h]
  simp only [onEvent, hostRead, Reg.at_offset, hr]

/-- A read that the register refuses is answered REFUSED. -/
theorem step_read_refused {s : State} {es : List HostEvent} (r : Reg) (h : s.host = .read r.offset 32 :: es)
    (hr : regRead r { s with host := es } = none) : step s = .next (refuseRead { s with host := es }) := by
  rw [step_event h]
  simp only [onEvent, hostRead, Reg.at_offset, hr]

/-- A write at the offset of a register other than `CMD`. -/
theorem step_write {s u : State} {es : List HostEvent} (r : Reg) {v : Word} (h : s.host = .write r.offset 32 v :: es)
    (hne : r ≠ .cmd) (hr : regWrite r v { s with host := es } = some u) : step s = .next (answerWrite u) := by
  rw [step_event h]
  have hwrite : ∀ u, hostWrite exec r.offset 32 v u = .next (hostWriteReg r v u) := by
    intro u
    cases r
    case cmd => exact absurd rfl hne
    all_goals rfl
  simp only [onEvent, hwrite, hostWriteReg, hr]

/-- The four flags in their places, and zeros above (R23). -/
theorem flagBits : ∀ e g c t : Bool,
    let w : Word := 0#28 ++ BitVec.ofBool e ++ BitVec.ofBool g ++ BitVec.ofBool c ++ BitVec.ofBool t
    w.getLsbD 0 = t ∧ w.getLsbD 1 = c ∧ w.getLsbD 2 = g ∧ w.getLsbD 3 = e ∧ w.extractLsb' 4 28 = 0#28 := by
  decide

/-- Settles O13: `STATUS` is put together from the flags. -/
theorem statusReadsTheFlags : Obligations.StatusReadsTheFlags := by
  unfold Obligations.StatusReadsTheFlags
  intro s es h
  obtain ⟨htree, hcodes, hsingle, herrf, hzero⟩ := flagBits (errf s) (single s) s.codesValid s.treeValid
  have hlatched : errf s = decide (s.err.code ≠ 0#4) := by simp [errf, bne, beq_eq_decide]
  exact ⟨statusWord s, step_read .status h rfl, htree, hcodes, hsingle, herrf.trans hlatched, hzero⟩

/-- Settles O14: `ERR` is put together from the fields of the latch. -/
theorem errReadsTheLatch : Obligations.ErrReadsTheLatch := by
  unfold Obligations.ErrReadsTheLatch
  intro s es h
  have skip := @BitVec.extractLsb'_append_eq_of_le
  have low := @BitVec.extractLsb'_append_eq_right
  refine ⟨errWord s, step_read .err h rfl, low, ?sub, ?op, ?zero⟩
  case sub => exact (skip (by decide)).trans low
  case op => exact (skip (by decide)).trans ((skip (by decide)).trans low)
  case zero => exact (skip (by decide)).trans ((skip (by decide)).trans BitVec.extractLsb'_append_eq_left)

/-- Settles O15: each offset is that of its register. -/
theorem registerReadsReturnTheRegister : Obligations.RegisterReadsReturnTheRegister := by
  unfold Obligations.RegisterReadsReturnTheRegister
  intro s es off w h hmem
  simp only [List.mem_cons, Prod.mk.injEq, List.not_mem_nil, or_false] at hmem
  rcases hmem with ⟨rfl, rfl⟩ | ⟨rfl, rfl⟩ | ⟨rfl, rfl⟩ | ⟨rfl, rfl⟩ | ⟨rfl, rfl⟩ | ⟨rfl, rfl⟩ | ⟨rfl, rfl⟩ |
    ⟨rfl, rfl⟩ | ⟨rfl, rfl⟩ | ⟨rfl, rfl⟩ | ⟨rfl, rfl⟩ | ⟨rfl, rfl⟩ | ⟨rfl, rfl⟩
  · exact step_read .cmd h rfl
  · exact step_read .errpos h rfl
  · exact step_read .errsym h rfl
  · exact step_read .tlen h rfl
  · exact step_read .blen h rfl
  · exact step_read .olen h rfl
  · exact step_read .nleaf h rfl
  · exact step_read .nnode h rfl
  · exact step_read .root h rfl
  · exact step_read .cur h rfl
  · exact step_read .sel h rfl
  · exact step_read .idx h rfl
  · exact step_read .sub h rfl

/-- Settles O16: each offset is that of a register the host writes. -/
theorem registerWritesStoreAnyValue : Obligations.RegisterWritesStoreAnyValue := by
  unfold Obligations.RegisterWritesStoreAnyValue
  intro s es v
  exact ⟨fun h => step_write .tlen h (by decide) rfl, fun h => step_write .blen h (by decide) rfl,
    fun h => step_write .sel h (by decide) rfl, fun h => step_write .idx h (by decide) rfl,
    fun h => step_write .sub h (by decide) rfl⟩

/-! ### The registers after reset (R21) -/

/-- Settles O11: each register of the reset state reads as its reset value, and `SEL` 0 names no space. -/
theorem registersReadTheirResetValues : Obligations.RegistersReadTheirResetValues := by
  unfold Obligations.RegistersReadTheirResetValues
  intro c es d off w hmem
  refine ⟨?_, _, step_read_refused .data rfl rfl⟩
  have hread : ∀ r : Reg, off = r.offset → regRead r (State.resetOf c es d) = some (w, State.resetOf c es d) →
      step (State.resetOf c (.read off 32 :: es) d) = .next { State.resetOf c es d with resp := okRead w } := by
    rintro r rfl hr
    exact step_read r rfl hr
  have hstatus : statusWord (State.resetOf c es d) = 0#32 := by
    simp [statusWord, errf, single, State.resetOf, ErrLatch.none]
  have herr : errWord (State.resetOf c es d) = 0#32 := by simp [errWord, State.resetOf, ErrLatch.none]
  simp only [List.mem_cons, Prod.mk.injEq, List.not_mem_nil, or_false] at hmem
  rcases hmem with ⟨hoff, rfl⟩ | ⟨hoff, rfl⟩ | ⟨hoff, rfl⟩ | ⟨hoff, rfl⟩ | ⟨hoff, rfl⟩ | ⟨hoff, rfl⟩ | ⟨hoff, rfl⟩ |
    ⟨hoff, rfl⟩ | ⟨hoff, rfl⟩ | ⟨hoff, rfl⟩ | ⟨hoff, rfl⟩ | ⟨hoff, rfl⟩ | ⟨hoff, rfl⟩ | ⟨hoff, rfl⟩ | ⟨hoff, rfl⟩
  · exact hread .cmd hoff rfl
  · exact hread .status hoff (by simp [regRead, hstatus])
  · exact hread .err hoff (by simp [regRead, herr])
  · exact hread .errpos hoff rfl
  · exact hread .errsym hoff rfl
  · exact hread .tlen hoff rfl
  · exact hread .blen hoff rfl
  · exact hread .olen hoff rfl
  · exact hread .nleaf hoff rfl
  · exact hread .nnode hoff rfl
  · exact hread .root hoff rfl
  · exact hread .cur hoff rfl
  · exact hread .sel hoff rfl
  · exact hread .idx hoff rfl
  · exact hread .sub hoff rfl

end Sys2Proof.Machine
end

section
/-! PROOF. O4 and O17 to O21: the transactions of the host port. First what a `DATA` access reaches, then which transactions
are refused, then what the others do. -/

namespace Sys2Proof.Machine

/-! ### What a `DATA` access reaches (R63, R96) -/

/-- The space a `SEL` value names is the one with that code. -/
theorem Space.ofSel_eq_some {v : Word} {sp : Space} : Space.ofSel v = some sp ↔ v = sp.sel := by
  constructor
  · intro h
    unfold Space.ofSel at h
    split_ifs at h <;> cases h <;> assumption
  · rintro rfl
    cases sp <;> rfl

/-- The `SEL` values that name no space (R62 row 4). -/
theorem Space.ofSel_eq_none {v : Word} : Space.ofSel v = none ↔ v.toNat = 0 ∨ 8 ≤ v.toNat := by
  simp only [Space.ofSel, ite_eq_iff, reduceCtorEq, and_false, false_or, and_true]
  bv_omega

/-- A `DATA` access reaches the space that `SEL` names, if `IDX` and, where it counts, `SUB` are within it. -/
theorem dataSpace_eq_some {s : State} {sp : Space} :
    dataSpace s = some sp ↔
      s.sel = sp.sel ∧ s.idx.toNat < sp.size s.cfg ∧ ∀ n, sp.subLimit s.cfg = some n → s.sub.toNat < n := by
  rw [← Space.ofSel_eq_some]
  unfold dataSpace
  cases Space.ofSel s.sel with
  | none => simp
  | some sp' =>
    simp only [Option.some.injEq]
    constructor
    · intro h
      split_ifs at h with hidx
      split at h
      · next hlimit => cases h; exact ⟨rfl, hidx, by simp [hlimit]⟩
      · next n hlimit =>
        split_ifs at h with hsub
        cases h; exact ⟨rfl, hidx, by simpa [hlimit] using hsub⟩
    · rintro ⟨rfl, hidx, hsub⟩
      rw [if_pos hidx]
      split
      · rfl
      · next n hlimit => exact if_pos (hsub n hlimit)

section Rows
variable {s : State} {sp : Space} (hsel : s.sel = sp.sel)
include hsel

/-- R62 row 5, said of the space that `SEL` names. -/
theorem badIdx_iff : badIdx s ↔ sp.size s.cfg ≤ s.idx.toNat := by
  cases sp <;> simp [badIdx, hsel, Space.sel, Space.size]

/-- R62 row 6, said of the space that `SEL` names. -/
theorem badSub_iff : badSub s ↔ ∃ n, sp.subLimit s.cfg = some n ∧ n ≤ s.sub.toNat := by
  cases sp <;> simp [badSub, hsel, Space.sel, Space.subLimit, Nat.succ_le_iff]

/-- R62 row 7, said of the space that `SEL` names. -/
theorem readOnlySpace_iff : readOnlySpace s ↔ sp.writeLimit s.cfg = none := by
  cases sp <;> simp [readOnlySpace, hsel, Space.sel, Space.writeLimit]

/-- R62 row 8, said of the space that `SEL` names. -/
theorem badValue_iff {v : Word} : badValue s v ↔ ∃ n, sp.writeLimit s.cfg = some n ∧ n ≤ v.toNat := by
  cases sp <;> simp [badValue, hsel, Space.sel, Space.writeLimit, Nat.succ_le_iff]

end Rows

/-- A `DATA` access that reaches no space is one of rows 4 to 6 of R62. -/
theorem dataSpace_eq_none {s : State} : dataSpace s = none ↔ badSel s ∨ badIdx s ∨ badSub s := by
  cases hsel : Space.ofSel s.sel with
  | none => exact iff_of_true (by simp [dataSpace, hsel]) (.inl (Space.ofSel_eq_none.1 hsel))
  | some sp =>
    have hs : s.sel = sp.sel := Space.ofSel_eq_some.1 hsel
    have hgood : ¬ badSel s := fun hbad => by simp [Space.ofSel_eq_none.2 hbad] at hsel
    have hnamed : dataSpace s = none ↔ dataSpace s ≠ some sp := by
      refine ⟨by simp +contextual, fun hne => Option.eq_none_iff_forall_ne_some.2 fun sp' h => hne ?_⟩
      rwa [Option.some.inj ((Space.ofSel_eq_some.2 (dataSpace_eq_some.1 h).1).symm.trans hsel)] at h
    rw [hnamed, ne_eq, dataSpace_eq_some, badIdx_iff hs, badSub_iff hs]
    simp only [hs, hgood, true_and, false_or, not_and_or, not_lt, not_forall, exists_prop]

/-- What a read of `DATA` returns from the space it reaches, and the state after it (R63 to R69). -/
def spaceRead (sp : Space) (s : State) : Word × State :=
  match sp with
  | .freq => (wordOf (readFreq s.idx.toNat s).1, (readFreq s.idx.toNat s).2)
  | .text => (wordOf (readText s.idx.toNat s).1, (readText s.idx.toNat s).2)
  | .bits => (wordOf (readBits s.idx.toNat s).1.toNat, (readBits s.idx.toNat s).2)
  | .out => (wordOf (readOut s.idx.toNat s).1, (readOut s.idx.toNat s).2)
  | .node => dataNode s
  | .codelen => dataCodelen s
  | .codebit => dataCodebit s

/-- A read of `DATA` returns what the space it reaches returns. -/
theorem dataRead_eq (s : State) : dataRead s = (dataSpace s).map (spaceRead · s) := by
  unfold dataRead
  split <;> next h => rw [h]; rfl

/-- The reads of `DATA` that are refused (R62 rows 4 to 6). -/
theorem dataRead_eq_none {s : State} : dataRead s = none ↔ badSel s ∨ badIdx s ∨ badSub s := by
  rw [dataRead_eq, Option.map_eq_none_iff, dataSpace_eq_none]

/-- A write of `DATA` that fits the space it reaches is stored there. -/
theorem dataWrite_of_fits {s : State} {sp : Space} {n : Nat} {v : Word} (hsp : dataSpace s = some sp)
    (hn : sp.writeLimit s.cfg = some n) (hv : v.toNat < n) : dataWrite v s = some (dataStore sp v s) := by
  simp [dataWrite, hsp, hn, hv]

/-- The writes of `DATA` that are refused (R62 rows 4 to 8). -/
theorem dataWrite_eq_none {s : State} {v : Word} :
    dataWrite v s = none ↔ badSel s ∨ badIdx s ∨ badSub s ∨ readOnlySpace s ∨ badValue s v := by
  rw [← or_assoc (a := badIdx s), ← or_assoc, ← dataSpace_eq_none]
  cases hsp : dataSpace s with
  | none => simp [dataWrite, hsp]
  | some sp =>
    have hs : s.sel = sp.sel := (dataSpace_eq_some.1 hsp).1
    rw [readOnlySpace_iff hs, badValue_iff hs]
    cases hn : sp.writeLimit s.cfg with
    | none => simp [dataWrite, hsp, hn]
    | some n => simp [dataWrite, hsp, hn]

/-! ### The refused transactions (R62) -/

/-- The one register whose reads can be refused is `DATA`. -/
theorem regRead_eq_none {r : Reg} {s : State} :
    regRead r s = none ↔ r.offset = 0x3C ∧ (badSel s ∨ badIdx s ∨ badSub s) := by
  rw [← dataRead_eq_none]
  cases r <;> simp [regRead, Reg.offset]

/-- A write of a register other than `CMD` is refused where the register is read-only (R62 row 3), or by `DATA`. -/
theorem regWrite_eq_none {r : Reg} {v : Word} {s : State} (hr : r ≠ .cmd) :
    regWrite r v s = none ↔
      r.offset ∈ [0x04, 0x08, 0x0C, 0x10, 0x1C, 0x20, 0x24, 0x28, 0x2C] ∨
      (r.offset = 0x3C ∧ (badSel s ∨ badIdx s ∨ badSub s ∨ readOnlySpace s ∨ badValue s v)) := by
  rw [← dataWrite_eq_none]
  cases r <;> simp [regWrite, Reg.offset] at hr ⊢

/-- The accesses of the register map are those that are not rows 1 and 2 of R62. -/
theorem not_badAccess_offset (r : Reg) : ¬ badAccess r.offset 32 := by cases r <;> decide

/-- What a read does: a refused one draws its data, one that is done answers OK. -/
theorem hostRead_cases (off width : Nat) (s : State) :
    (RefusedRead s off width ∧ hostRead off width s = refuseRead s) ∨
    (¬ RefusedRead s off width ∧ ∃ d, (hostRead off width s).resp = okRead d) := by
  cases hat : Reg.at off width with
  | none => exact .inl ⟨.inl (Reg.at_eq_none.1 hat), by simp [hostRead, hat]⟩
  | some r =>
    obtain ⟨rfl, rfl⟩ := Reg.at_eq_some.1 hat
    cases hread : regRead r s with
    | none => exact .inl ⟨.inr (regRead_eq_none.1 hread), by simp [hostRead, hat, hread]⟩
    | some d =>
      refine .inr ⟨?_, d.1, by simp [hostRead, hat, hread]⟩
      rw [RefusedRead, or_iff_right (not_badAccess_offset r), ← regRead_eq_none, hread]
      simp

/-! ### Commands (R91, R211) -/

/-- The write of a command's word to `CMD` runs the command. -/
theorem command_of_decode {run : Instr → State → Result} {v : Word} {s : State} {i : Instr}
    (h : decodeWord v = .ok i) : command run v s = run i s := by
  simp [command, h]

/-- Each command's word decodes to the command. -/
theorem decodeWord_encode (i : Instr) : decodeWord (encode i) = .ok i := by cases i <;> rfl

/-- The commands that do not take the acceptance test are those of the words 0, 0xE and 0xF. -/
theorem encode_mem_always_accepted (i : Instr) :
    encode i ∈ [0x00000000#32, 0x0000000E#32, 0x0000000F#32] ↔ i ∈ [Instr.nop, .clrerr, .clear] := by
  cases i <;> decide

/-- With an error latched every command but NOP, CLRERR and CLEAR is refused. -/
theorem exec_refused {i : Instr} {s : State} (hl : s.latched) (hi : i ∉ [Instr.nop, .clrerr, .clear]) :
    exec i s = .next (refuseWrite s) := by
  cases i with
  | nop | clrerr | clear => simp at hi
  | count | build | gencodes | encode | decode => exact if_pos hl

/-- With an error latched a `CMD` write is refused, unless its word is 0, 0xE or 0xF (R62 row 9). -/
theorem command_refused {v : Word} {s : State} (hl : s.latched)
    (hv : v ∉ [0x00000000#32, 0x0000000E#32, 0x0000000F#32]) : command exec v s = .next (refuseWrite s) := by
  cases hdec : decodeWord v with
  | ok i =>
    rw [command_of_decode hdec]
    rw [eq_encode_of_decodeWord hdec, encode_mem_always_accepted] at hv
    exact exec_refused hl hv
  | error x => simp [command, hdec, illegalCommand, accepted_latched hl]

/-- A `CMD` write that is not refused and completes is answered OK. -/
theorem command_answers_ok {v : Word} {s t : State}
    (hv : ¬ (s.latched ∧ v ∉ [0x00000000#32, 0x0000000E#32, 0x0000000F#32])) (h : command exec v s = .next t) :
    t.resp = okWrite := by
  cases hdec : decodeWord v with
  | ok i =>
    rw [command_of_decode hdec] at h
    rw [eq_encode_of_decodeWord hdec, encode_mem_always_accepted] at hv
    rcases exec_cases h with ⟨-, rfl⟩ | ⟨-, rfl⟩ | ⟨-, rfl⟩ | ⟨hl, hi, -⟩ |
      ⟨-, ⟨-, rfl⟩ | ⟨-, rfl⟩ | ⟨-, u, -, rfl⟩ | ⟨-, rfl⟩ | ⟨-, rfl⟩⟩
    case inr.inr.inr.inl => exact absurd ⟨hl, hi⟩ hv
    all_goals rfl
  | error x =>
    simp only [command, hdec] at h
    have hillegal : v ∉ [0x00000000#32, 0x0000000E#32, 0x0000000F#32] := by
      have hlegal : ∀ i, v ≠ encode i := by
        rintro i rfl
        simp [decodeWord_encode] at hdec
      simpa using ⟨hlegal .nop, hlegal .clrerr, hlegal .clear⟩
    rcases accepted_next h with ⟨hl, -⟩ | ⟨-, hdone⟩
    · exact absurd ⟨hl, hillegal⟩ hv
    · rw [finish_next hdone]; rfl

/-- Settles O4: the write is an access of `CMD`, which decodes its word. -/
theorem stepRunsTheDecodedCommand : Obligations.StepRunsTheDecodedCommand := by
  unfold Obligations.StepRunsTheDecodedCommand
  have hstep : ∀ (s : State) (v : Word) (i : Instr) (es : List HostEvent),
      s.host = .write 0x00 32 v :: es → decodeWord v = .ok i → step s = exec i { s with host := es } := by
    intro s v i es h hdec
    rw [step_event h]
    exact command_of_decode hdec
  refine ⟨hstep, fun s v i hdec => hstep _ v i s.host ?_ hdec⟩
  simp [State.withFetchWord, State.issue, wordOf, Nat.mod_eq_of_lt v.isLt]

/-! ### Writes (R61) -/

/-- A write at the offset of a register other than `CMD` is a write of that register. -/
theorem hostWrite_offset {run : Instr → State → Result} {r : Reg} {v : Word} {s : State} (hr : r ≠ .cmd) :
    hostWrite run r.offset 32 v s = .next (hostWriteReg r v s) := by
  cases r
  case cmd => exact absurd rfl hr
  all_goals rfl

/-- The refused writes of `CMD` are row 9 of R62. -/
theorem refusedWrite_cmd {v : Word} {s : State} :
    RefusedWrite s Reg.cmd.offset 32 v ↔ s.latched ∧ v ∉ [0x00000000#32, 0x0000000E#32, 0x0000000F#32] := by
  rw [RefusedWrite, or_iff_right (not_badAccess_offset .cmd)]
  simp [Reg.offset]

/-- The refused writes of the other registers are rows 3 to 8 of R62. -/
theorem refusedWrite_offset {r : Reg} {v : Word} {s : State} (hr : r ≠ .cmd) :
    RefusedWrite s r.offset 32 v ↔ regWrite r v s = none := by
  have hoff : r.offset ≠ 0x00 := by cases r <;> simp [Reg.offset] at hr ⊢
  rw [RefusedWrite, or_iff_right (not_badAccess_offset r), regWrite_eq_none hr]
  simp only [hoff, false_and, or_false]

/-- What a write does: a refused one changes the answer alone, one that is done answers OK. -/
theorem hostWrite_cases (off width : Nat) (v : Word) (s : State) :
    (RefusedWrite s off width v ∧ hostWrite exec off width v s = .next (refuseWrite s)) ∨
    (¬ RefusedWrite s off width v ∧ ∀ t, hostWrite exec off width v s = .next t → t.resp = okWrite) := by
  cases hat : Reg.at off width with
  | none => exact .inl ⟨.inl (Reg.at_eq_none.1 hat), by simp [hostWrite, hat]⟩
  | some r =>
    obtain ⟨rfl, rfl⟩ := Reg.at_eq_some.1 hat
    by_cases hr : r = .cmd
    · subst hr
      rw [refusedWrite_cmd]
      by_cases hv : s.latched ∧ v ∉ [0x00000000#32, 0x0000000E#32, 0x0000000F#32]
      · exact .inl ⟨hv, command_refused hv.1 hv.2⟩
      · exact .inr ⟨hv, fun t => command_answers_ok hv⟩
    · rw [refusedWrite_offset hr, hostWrite_offset hr, hostWriteReg]
      cases hwrite : regWrite r v s with
      | none => exact .inl ⟨rfl, rfl⟩
      | some u => exact .inr ⟨by simp, by rintro t ⟨⟩; rfl⟩

/-! ### O17 and O18 -/

/-- Settles O17, by the frame of a read transaction. -/
theorem readsChangeNothingButTheAnswer : Obligations.ReadsChangeNothingButTheAnswer := by
  unfold Obligations.ReadsChangeNothingButTheAnswer
  intro s off width es h
  exact ⟨_, step_event h, hostRead_state off width _⟩

/-- Settles O18: the list of R62 is, register by register, where the port refuses. -/
theorem refusalsAreExactlyTheNineCases : Obligations.RefusalsAreExactlyTheNineCases := by
  unfold Obligations.RefusalsAreExactlyTheNineCases
  refine fun s es => ⟨fun off width h => ?_, fun off width v h => ?_⟩ <;> rw [step_event h]
  · rcases hostRead_cases off width { s with host := es } with ⟨href, hread⟩ | ⟨hdone, d, hread⟩
    · exact ⟨fun _ => ⟨_, _, congrArg _ hread⟩, fun hn => absurd href hn⟩
    · exact ⟨fun hr => absurd hr hdone, fun _ => ⟨d, _, rfl, hread⟩⟩
  · rcases hostWrite_cases off width v { s with host := es } with ⟨href, hwrite⟩ | ⟨hdone, hwrite⟩
    · exact ⟨fun _ => hwrite, fun hn => absurd href hn⟩
    · exact ⟨fun hr => absurd hr hdone, fun _ => hwrite⟩

/-! ### What each space returns (R64 to R69, R80) -/

/-- The format of one bit (R97). -/
theorem wordOf_toNat_bool (b : Bool) : wordOf b.toNat = if b then 1#32 else 0#32 := by cases b <;> rfl

/-- The formats of the fields of a node (R67, R97). -/
theorem Node.field_eq {nd : Node} {sub w : Word}
    (h : (sub, w) ∈ [(0#32, wordOf nd.w), (1#32, if nd.leaf then 1#32 else 0#32), (2#32, wordOf nd.sym),
      (3#32, nd.left), (4#32, nd.right)]) : sub.toNat < 5 ∧ nd.field sub.toNat = w := by
  simp only [List.mem_cons, Prod.mk.injEq, List.not_mem_nil, or_false] at h
  rcases h with ⟨rfl, rfl⟩ | ⟨rfl, rfl⟩ | ⟨rfl, rfl⟩ | ⟨rfl, rfl⟩ | ⟨rfl, rfl⟩
  case inr.inl => exact ⟨by decide, wordOf_toNat_bool nd.leaf⟩
  all_goals exact ⟨by decide, rfl⟩

section Returned
variable {s : State}

theorem spaceRead_freq {n : Nat} (h : s.freq.read s.idx.toNat = some n) : spaceRead .freq s = (wordOf n, s) := by
  simp [spaceRead, readFreq, readElem_of_read h]

theorem spaceRead_text {x : Nat} (h : s.text.read s.idx.toNat = some x) : spaceRead .text s = (wordOf x, s) := by
  simp [spaceRead, readText, readElem_of_read h]

theorem spaceRead_bits {b : Bool} (h : s.bits.read s.idx.toNat = some b) :
    spaceRead .bits s = (if b then 1#32 else 0#32, s) := by
  simp [spaceRead, readBits, readElem_of_read h, wordOf_toNat_bool]

theorem spaceRead_out {x : Nat} (h : s.out.read s.idx.toNat = some x) : spaceRead .out s = (wordOf x, s) := by
  simp [spaceRead, readOut, readElem_of_read h]

theorem spaceRead_node {nd : Node} (hvalid : s.treeValid = true) (hnode : s.idx.toNat < s.nnode.toNat)
    (h : s.node.read s.idx.toNat = some nd) : spaceRead .node s = (nd.field s.sub.toNat, s) := by
  simp [spaceRead, dataNode, hvalid, hnode, readNode_of_read h]

theorem spaceRead_codelen {c : Code} (hvalid : s.codesValid = true) (h : s.code.read s.idx.toNat = some c) :
    spaceRead .codelen s = (1#1 ++ BitVec.ofNat 31 c.length, s) := by
  simp [spaceRead, dataCodelen, lookupCode, hvalid, h]

theorem spaceRead_codelen_of_none (hvalid : s.codesValid = true) (h : s.code.read s.idx.toNat = none) :
    spaceRead .codelen s = (0#1 ++ (drawWord s).1.extractLsb' 0 31, (drawWord s).2) := by
  simp [spaceRead, dataCodelen, lookupCode, hvalid, h]

theorem spaceRead_codebit {ds : Code} {b : Bool} (hvalid : s.codesValid = true)
    (h : s.code.read s.idx.toNat = some ds) (hb : ds[s.sub.toNat]? = some b) :
    spaceRead .codebit s = (if b then 1#32 else 0#32, s) := by
  simp [spaceRead, dataCodebit, lookupCode, hvalid, h, hb, wordOf_toNat_bool]

theorem spaceRead_freq_of_none (h : s.freq.read s.idx.toNat = none) :
    spaceRead .freq s = (wordOf (freeCount s.cfg (drawWord s).1), (drawWord s).2) := by
  rw [spaceRead, readFreq, readElem_of_none h]; rfl

theorem spaceRead_text_of_none (h : s.text.read s.idx.toNat = none) :
    spaceRead .text s = (wordOf (freeSymbol s.cfg (drawWord s).1), (drawWord s).2) := by
  rw [spaceRead, readText, readElem_of_none h]; rfl

theorem spaceRead_bits_of_none (h : s.bits.read s.idx.toNat = none) :
    spaceRead .bits s = (wordOf (freeBit (drawWord s).1).toNat, (drawWord s).2) := by
  rw [spaceRead, readBits, readElem_of_none h]; rfl

theorem spaceRead_out_of_none (h : s.out.read s.idx.toNat = none) :
    spaceRead .out s = (wordOf (freeSymbol s.cfg (drawWord s).1), (drawWord s).2) := by
  rw [spaceRead, readOut, readElem_of_none h]; rfl

end Returned

/-! ### Elements through `DATA` (R64 to R69) -/

/-- A read of `DATA` within the space that `SEL` names is answered with what that space returns. -/
theorem step_read_space {s : State} {es : List HostEvent} {w : Word} {n : Nat} (sp : Space)
    (h : s.host = .read 0x3C 32 :: es) (hsel : s.sel = sp.sel) (hidx : s.idx.toNat < sp.size s.cfg)
    (hsub : ∀ n, sp.subLimit s.cfg = some n → s.sub.toNat < n)
    (hread : spaceRead sp { s with host := es } = (w, { s with host := es, draws := n })) :
    step s = .next { s with host := es, resp := okRead w, draws := n } := by
  have hspace : dataSpace { s with host := es } = some sp := dataSpace_eq_some.2 ⟨hsel, hidx, hsub⟩
  exact step_read .data h (by rw [regRead, dataRead_eq, hspace, Option.map_some, hread])

/-- A write of `DATA` that fits the space that `SEL` names is answered OK and stored there. -/
theorem step_write_space {s : State} {es : List HostEvent} {v : Word} {n : Nat} (sp : Space)
    (h : s.host = .write 0x3C 32 v :: es) (hsel : s.sel = sp.sel) (hidx : s.idx.toNat < sp.size s.cfg)
    (hsub : ∀ n, sp.subLimit s.cfg = some n → s.sub.toNat < n) (hlimit : sp.writeLimit s.cfg = some n)
    (hv : v.toNat < n) : step s = .next (answerWrite (dataStore sp v { s with host := es })) := by
  refine step_write .data h (by decide) ?_
  exact dataWrite_of_fits (s := { s with host := es }) (dataSpace_eq_some.2 ⟨hsel, hidx, hsub⟩) hlimit hv

/-- A value within a width is within it as a word. -/
theorem wordOf_toNat_lt {n m : Nat} (h : n < m) : (wordOf n).toNat < m := by
  rw [BitVec.toNat_ofNat]; exact (Nat.mod_le _ _).trans_lt h

/-- The bit of a word that is 0 or 1. -/
theorem getLsbD_zero_of_le_one {v : Word} (h : v.toNat ≤ 1) : v.getLsbD 0 = decide (v = 1#32) := by
  have hv : v = 0#32 ∨ v = 1#32 := by bv_omega
  rcases hv with rfl | rfl <;> decide

/-- Settles O19, space by space: the element is listed, so it is read as it stands. -/
theorem dataReadReturnsTheElement : Obligations.DataReadReturnsTheElement := by
  unfold Obligations.DataReadReturnsTheElement
  rintro s es k h rfl
  refine ⟨fun n hsel hk hr => ?freq, fun x hsel hk hr => ?text, fun b hsel hk hr => ?bits,
    fun x hsel hk hr => ?out, fun nd w hsel hk hvalid hnode hr hmem => ?node,
    fun c hsel hk hvalid hr => ?codelen, fun hsel hk hvalid hr => ?withoutCode,
    fun ds b hsel hk hsub hvalid hr hb => ?codebit⟩
  case freq => exact step_read_space .freq h hsel hk nofun (spaceRead_freq hr)
  case text => exact step_read_space .text h hsel hk nofun (spaceRead_text hr)
  case bits => exact step_read_space .bits h hsel hk nofun (spaceRead_bits hr)
  case out => exact step_read_space .out h hsel hk nofun (spaceRead_out hr)
  case node =>
    obtain ⟨hsub, rfl⟩ := Node.field_eq hmem
    exact step_read_space .node h hsel hk (by simpa [Space.subLimit] using hsub) (spaceRead_node hvalid hnode hr)
  case codelen => exact step_read_space .codelen h hsel hk nofun (spaceRead_codelen hvalid hr)
  case withoutCode =>
    exact ⟨_, _, step_read_space .codelen h hsel hk nofun (spaceRead_codelen_of_none hvalid hr)⟩
  case codebit =>
    exact step_read_space .codebit h hsel hk (by simpa [Space.subLimit] using hsub) (spaceRead_codebit hvalid hr hb)

/-- Settles O20: a free value is brought to the width of its element. -/
theorem unwrittenElementsReadAsSomeValue : Obligations.UnwrittenElementsReadAsSomeValue := by
  unfold Obligations.UnwrittenElementsReadAsSomeValue
  rintro s es k h rfl
  refine ⟨?freq, ?text, ?bits, ?out⟩ <;> rintro ⟨hsel, hk, hr⟩
  case freq =>
    exact ⟨_, _, step_read_space .freq h hsel hk nofun (spaceRead_freq_of_none hr),
      wordOf_toNat_lt (Nat.mod_lt _ (Nat.two_pow_pos _))⟩
  case text =>
    exact ⟨_, _, step_read_space .text h hsel hk nofun (spaceRead_text_of_none hr),
      wordOf_toNat_lt (freeSymbol_lt s.cfg _)⟩
  case bits =>
    exact ⟨_, _, step_read_space .bits h hsel hk nofun (spaceRead_bits_of_none hr),
      wordOf_toNat_lt (Bool.toNat_lt _)⟩
  case out =>
    exact ⟨_, _, step_read_space .out h hsel hk nofun (spaceRead_out_of_none hr),
      wordOf_toNat_lt (freeSymbol_lt s.cfg _)⟩

/-- Settles O21: the value fits the space, whose store writes one element. -/
theorem dataWriteStoresOneElement : Obligations.DataWriteStoresOneElement := by
  unfold Obligations.DataWriteStoresOneElement
  rintro s es k v h rfl
  refine ⟨fun hsel hk hv => ?freq, fun hsel hk hv => ?text, fun hsel hk hv => ?bits⟩
  case freq =>
    exact ⟨_, step_write_space .freq h hsel hk nofun rfl (Nat.lt_succ_of_le hv), rfl,
      Memory.read_write_same _ _ _, fun j => Memory.read_write_other _ _⟩
  case text =>
    exact ⟨_, step_write_space .text h hsel hk nofun rfl hv, rfl,
      Memory.read_write_same _ _ _, fun j => Memory.read_write_other _ _⟩
  case bits =>
    rw [← getLsbD_zero_of_le_one hv]
    exact ⟨_, step_write_space .bits h hsel hk nofun rfl (Nat.lt_succ_of_le hv), rfl,
      Memory.read_write_same _ _ _, fun j => Memory.read_write_other _ _⟩

end Sys2Proof.Machine
end

section
/-! PROOF. O35: every turn of COUNT adds one to one count, so after TLEN turns the counts add up to TLEN. -/

namespace Sys2Proof.Machine

/-- FREQ after `k` turns of the counting loop: every count has been written, and they add up to `k`. -/
structure Tallied (k : Nat) (s : State) : Prop where
  text : ∀ e ∈ s.text, e.2 < s.cfg.nsymv
  defined : FreqDefined s
  sum : freqSum s = k

/-- The sum of all counts as a sum over the symbols. -/
theorem freqSum_eq (s : State) : freqSum s = ∑ x ∈ Finset.range s.cfg.nsymv, freqAt s x := rfl

/-- COUNT starts from a table of zeros (R112). -/
theorem read_freshTable (s : State) (x : Nat) :
    (freshTable s).freq.read x = if x < s.cfg.nsymv then some 0 else none := Memory.read_filled _ _ _

theorem freshTable_tallied {s : State} (h : ∀ e ∈ s.text, e.2 < s.cfg.nsymv) : Tallied 0 (freshTable s) where
  text := h
  defined x hx := by
    have hlt : x < s.cfg.nsymv := hx
    simp [read_freshTable, hlt]
  sum := by
    rw [freqSum_eq]
    refine Finset.sum_eq_zero fun x _ => ?_
    rw [freqAt, read_freshTable]
    split <;> rfl

/-- A turn adds one to the count of the symbol it reads (R113). -/
theorem freqAt_countTurn {s : State} (h : (s.freq.read (readText s.work.tpos s).1).isSome = true) (y : Nat) :
    freqAt (countTurn s) y = freqAt s y + if y = (readText s.work.tpos s).1 then 1 else 0 := by
  obtain ⟨v, hv⟩ := Option.isSome_iff_exists.1 h
  rw [freqAt, countTurn_freq hv, Memory.read_write]
  split
  · next hy => subst hy; simp [freqAt, hv]
  · rfl

theorem countTurn_tallied (k : Nat) (s : State) (h : Tallied k s) : Tallied (k + 1) (countTurn s) := by
  have hcfg : (countTurn s).cfg = s.cfg := by rw [countTurn_frame]
  have hx : (readText s.work.tpos s).1 < s.cfg.nsymv :=
    readElem_forall (p := (· < s.cfg.nsymv)) h.text (freeSymbol_lt s.cfg)
  have hdef := h.defined _ hx
  refine ⟨by rw [countTurn_frame]; exact h.text, fun y hy => ?_, ?_⟩
  · obtain ⟨v, hv⟩ := Option.isSome_iff_exists.1 hdef
    rw [countTurn_freq hv, Memory.read_write]
    split
    · rfl
    · exact h.defined y (hcfg ▸ hy)
  · calc freqSum (countTurn s)
        = ∑ y ∈ Finset.range s.cfg.nsymv, (freqAt s y + if y = (readText s.work.tpos s).1 then 1 else 0) := by
          rw [freqSum_eq, hcfg]
          exact Finset.sum_congr rfl fun y _ => freqAt_countTurn hdef y
      _ = freqSum s + 1 := by simp [Finset.sum_add_distrib, freqSum_eq, hx]
      _ = k + 1 := by rw [h.sum]

/-- The turns raise nothing (R115). -/
theorem iterate_countTurn_err (n : Nat) (s : State) : (countTurn^[n] s).err = s.err :=
  iterate_induct (P := fun _ u => u.err = s.err) (fun _ u hu => by rw [countTurn_frame]; exact hu) n 0 s rfl

/-- COUNT of a text within capacity makes one turn a symbol (R110). -/
theorem countEngine_of_fits {s : State} (h : s.tlen.toNat ≤ s.cfg.textMax) :
    countEngine s = countTurn^[s.tlen.toNat] (freshTable s) := if_neg (not_lt.2 h)

theorem exec_count_clear {s : State} (h : s.err.code = 0#4) :
    exec .count s = .next (answerWrite (countEngine s)) :=
  accepted_clear h fun s => finish (countEngine s)

/-- Settles O35, by what the turns of COUNT keep. -/
theorem countsAddUpToTheTextLength : Obligations.CountsAddUpToTheTextLength := by
  unfold Obligations.CountsAddUpToTheTextLength
  intro s hclear hlen htext
  have hloop := iterate_induct countTurn_tallied s.tlen.toNat 0 _ (freshTable_tallied htext)
  rw [zero_add, ← countEngine_of_fits hlen] at hloop
  have herr : (countEngine s).err = s.err := by rw [countEngine_of_fits hlen, iterate_countTurn_err]; rfl
  refine ⟨_, exec_count_clear hclear, hloop.defined, hloop.sum, ?_⟩
  rw [countEngine_frame, herr]; rfl

end Sys2Proof.Machine
end

section
/-! PROOF. O5 and O1 to O3: the words of R92, their bytes (R71), and what a write of a word to `CMD` does (R91). -/

namespace Sys2Proof.Machine

/-! ### Words and their bytes (R71, R92, R94) -/

/-- A word decodes to the command whose word it is, and to no other. -/
theorem decodeWord_eq_ok {v : Word} {i : Instr} : decodeWord v = .ok i ↔ v = encode i :=
  ⟨eq_encode_of_decodeWord, fun h => h ▸ decodeWord_encode i⟩

/-- A word that is no command's word is rejected. -/
theorem exists_decodeWord_error {v : Word} (h : ∀ i : Instr, v ≠ encode i) : ∃ x, decodeWord v = .error x := by
  cases hdec : decodeWord v with
  | ok i => exact absurd (decodeWord_eq_ok.1 hdec) (h i)
  | error x => exact ⟨x, rfl⟩

/-- The four bytes of a word carry that word: two neighbouring fields of a word are one field of it. -/
theorem wordOfBytes_bytesOfWord (v : Word) :
    wordOfBytes (v.extractLsb' 0 8) (v.extractLsb' 8 8) (v.extractLsb' 16 8) (v.extractLsb' 24 8) = v := by
  rw [wordOfBytes, BitVec.extractLsb'_append_extractLsb'_eq_extractLsb' (show 24 = 16 + 8 from rfl),
    BitVec.extractLsb'_append_extractLsb'_eq_extractLsb' (show 16 = 8 + 8 from rfl),
    BitVec.extractLsb'_append_extractLsb'_eq_extractLsb' (show 8 = 0 + 8 from rfl), BitVec.extractLsb'_eq_self]

/-- The decoder on the bytes of a word is the decoder on the word. -/
theorem decodeBytes_bytesOfWord (v : Word) : decodeBytes (bytesOfWord v) = decodeWord v :=
  congrArg decodeWord (wordOfBytes_bytesOfWord v)

/-- Settles O1: the bytes carry the word, and the word is the command's. -/
theorem encodedCommandDecodesToItself : Obligations.EncodedCommandDecodesToItself := by
  unfold Obligations.EncodedCommandDecodesToItself
  exact fun i => ⟨decodeWord_encode i, (decodeBytes_bytesOfWord _).trans (decodeWord_encode i)⟩

/-- Settles O2: the decoder and the encoder are inverse to each other. -/
theorem onlyTheEightWordsAreCommands : Obligations.OnlyTheEightWordsAreCommands := by
  unfold Obligations.OnlyTheEightWordsAreCommands
  exact fun v i => decodeWord_eq_ok

/-- Settles O3, the legal words as words of their commands and the illegal ones by evaluation. -/
theorem writtenOutWordsDecode : Obligations.WrittenOutWordsDecode := by
  unfold Obligations.WrittenOutWordsDecode
  exact ⟨decodeWord_encode .nop, decodeWord_encode .count, decodeWord_encode .decode, decodeWord_encode .clear,
    by decide, by decide, by decide⟩

/-! ### Writes of `CMD` (R91) -/

/-- A step whose event is a write of `CMD` is what the command register does with the word. -/
theorem step_cmd_write {s : State} {v : Word} {es : List HostEvent} (h : s.host = .write 0x00 32 v :: es) :
    step s = command exec v { s with host := es } := step_event h

/-- A word that is no command is none of the three that are never refused. -/
theorem not_mem_always_accepted {v : Word} (h : ∀ i : Instr, v ≠ encode i) :
    v ∉ [0x00000000#32, 0x0000000E#32, 0x0000000F#32] := by
  simpa using ⟨h .nop, h .clrerr, h .clear⟩

/-- With no error latched a word that is no command latches IllegalCommand, with its low byte and itself, and
changes nothing else (R94, R208). -/
theorem command_illegal {run : Instr → State → Result} {v : Word} {s : State} (hclear : s.err.code = 0#4)
    (h : ∀ i : Instr, v ≠ encode i) :
    command run v s = .next { s with err := ⟨6#4, 0#4, v.extractLsb' 0 8, v, 0#32⟩, resp := okWrite } := by
  obtain ⟨x, hx⟩ := exists_decodeWord_error h
  simp only [command, hx, illegalCommand_clear hclear]
  rfl

/-- Settles O5, by the acceptance test and then by whether the word is a command's. -/
theorem commandWriteIsRefusedIllegalOrRun : Obligations.CommandWriteIsRefusedIllegalOrRun := by
  unfold Obligations.CommandWriteIsRefusedIllegalOrRun
  intro s v es hhost
  rw [step_cmd_write hhost]
  refine ⟨fun ⟨hl, hv⟩ => command_refused hl hv, fun hdone => ⟨fun hillegal => ?_, fun i hi => ?_, fun t => ?_⟩⟩
  · have hclear : s.err.code = 0#4 := not_not.1 fun hl => hdone ⟨hl, not_mem_always_accepted hillegal⟩
    exact command_illegal hclear hillegal
  · exact command_of_decode (decodeWord_eq_ok.2 hi)
  · exact command_answers_ok hdone

end Sys2Proof.Machine
end

section
/-! PROOF. O34, O36: COUNT counts the symbols of a written text one by one, and raises on a text that is too long. -/

namespace Sys2Proof.Machine

theorem countTurn_tpos (s : State) : (countTurn s).work.tpos = s.work.tpos + 1 := by simp [countTurn]

/-- A turn over a written symbol adds one to its count and leaves every other count (R113). -/
theorem read_countTurn {s : State} {f : Nat → Nat} {n y : Nat} (htext : s.text.read s.work.tpos = some y)
    (hfreq : ∀ x, x < n → s.freq.read x = some (f x)) (hy : y < n) :
    ∀ x, x < n → (countTurn s).freq.read x = some (f x + [y].count x) := by
  intro x hx
  have hread : (readText s.work.tpos s).1 = y := by rw [readText, readElem_of_read htext]
  rw [countTurn_freq (v := f y) (by rw [hread]; exact hfreq y hy), hread, Memory.read_write]
  split
  · next hxy => simp [hxy]
  · next hxy => simp [hfreq x hx, Ne.symm hxy]

/-- The turns over the symbols `xs` that stand in TEXT from `TPOS` on add to the count of every symbol the number
of its positions in `xs` (R113). -/
theorem read_iterate_countTurn {n : Nat} (xs : List Nat) {s : State} {f : Nat → Nat}
    (htext : ∀ i, i < xs.length → s.text.read (s.work.tpos + i) = xs[i]?)
    (hfreq : ∀ x, x < n → s.freq.read x = some (f x)) (hxs : ∀ y ∈ xs, y < n) :
    ∀ x, x < n → (countTurn^[xs.length] s).freq.read x = some (f x + xs.count x) := by
  induction xs generalizing s f with
  | nil => exact hfreq
  | cons y ys ih =>
    intro x hx
    obtain ⟨hy, hys⟩ := List.forall_mem_cons.1 hxs
    have hrest : ∀ i, i < ys.length → (countTurn s).text.read ((countTurn s).work.tpos + i) = ys[i]? := by
      intro i hi
      have htail := htext (i + 1) (Nat.succ_lt_succ hi)
      rw [countTurn_tpos, countTurn_frame, Nat.add_assoc, Nat.add_comm 1 i]
      exact htail
    have hturn := read_countTurn (htext 0 (Nat.succ_pos _)) hfreq hy
    calc (countTurn^[ys.length] (countTurn s)).freq.read x
        = some (f x + [y].count x + ys.count x) := ih hrest hturn hys x hx
      _ = some (f x + (y :: ys).count x) := by rw [Nat.add_assoc, ← List.count_append, List.singleton_append]

/-- COUNT of a written text within capacity leaves in FREQ the number of positions of every symbol (R113). -/
theorem read_countEngine {s : State} {xs : List Nat} (htext : TextIs s xs) (hlen : xs.length ≤ s.cfg.textMax)
    (hxs : ∀ y ∈ xs, y < s.cfg.nsymv) :
    ∀ x, x < s.cfg.nsymv → (countEngine s).freq.read x = some (xs.count x) := by
  obtain ⟨htlen, hholds⟩ := htext
  intro x hx
  have hzero : ∀ x, x < s.cfg.nsymv → (freshTable s).freq.read x = some 0 := fun x hx =>
    (read_freshTable s x).trans (if_pos hx)
  have hstart : ∀ i, i < xs.length → (freshTable s).text.read ((freshTable s).work.tpos + i) = xs[i]? := by
    intro i hi
    rw [show (freshTable s).work.tpos + i = i from Nat.zero_add i]
    exact hholds i hi
  rw [countEngine_of_fits (htlen ▸ hlen), htlen, read_iterate_countTurn xs hstart hzero hxs x hx, Nat.zero_add]

/-- Counts that are the numbers of positions in `xs` add up to the length of `xs` (R113). -/
theorem freqSum_of_counts {s : State} {xs : List Nat} (hxs : ∀ y ∈ xs, y < s.cfg.nsymv)
    (hfreq : ∀ x, x < s.cfg.nsymv → s.freq.read x = some (xs.count x)) : freqSum s = xs.length := by
  calc freqSum s
      = ∑ x ∈ Finset.range s.cfg.nsymv, (xs : Multiset Nat).count x := by
        rw [freqSum_eq]
        refine Finset.sum_congr rfl fun x hx => ?_
        rw [freqAt, hfreq x (Finset.mem_range.1 hx), Option.getD_some, Multiset.coe_count]
    _ = xs.length := Multiset.sum_count_eq_card fun y hy => Finset.mem_range.2 (hxs y hy)

/-- COUNT of a text within capacity writes FREQ and nothing else that the host can see (R115). -/
theorem answerWrite_countEngine_frame {s : State} (hlen : s.tlen.toNat ≤ s.cfg.textMax) :
    answerWrite (countEngine s) = { s with
      freq := (countEngine s).freq, work := (countEngine s).work, draws := (countEngine s).draws,
      resp := okWrite } := by
  have herr : (countEngine s).err = s.err := by rw [countEngine_of_fits hlen, iterate_countTurn_err]; rfl
  rw [countEngine_frame, herr]; rfl

/-- COUNT of a text beyond capacity raises CapacityExceeded 1 before it touches FREQ (R111). -/
theorem countEngine_of_tooLong {s : State} (h : s.cfg.textMax < s.tlen.toNat) :
    countEngine s = raise Instr.count.opc .capacityExceeded 1#4 s.tlen 0 s := if_pos h

/-- Settles O34, by induction on the text: a turn counts one symbol. -/
theorem countCountsEverySymbol : Obligations.CountCountsEverySymbol := by
  unfold Obligations.CountCountsEverySymbol
  intro s xs hclear htext hlen hxs
  have hfits : s.tlen.toNat ≤ s.cfg.textMax := htext.1.trans_le hlen
  have hcfg : (countEngine s).cfg = s.cfg := by rw [countEngine_frame]
  have hfreq := read_countEngine htext hlen hxs
  have hsum : freqSum (countEngine s) = xs.length := freqSum_of_counts (hcfg ▸ hxs) (hcfg ▸ hfreq)
  exact ⟨_, exec_count_clear hclear, hfreq, hsum, answerWrite_countEngine_frame hfits⟩

/-- Settles O36: the length test comes before the table is cleared. -/
theorem countOfTooLongTextIsCapacityExceeded : Obligations.CountOfTooLongTextIsCapacityExceeded := by
  unfold Obligations.CountOfTooLongTextIsCapacityExceeded
  intro s hclear hlong
  rw [exec_count_clear hclear, countEngine_of_tooLong hlong]
  rfl

end Sys2Proof.Machine
end

section
/-! PROOF. O39, O38: ExtractMin takes the least key, so every merge pairs the two least nodes of the queue. The queue
as it stood when a node was made is read off the arena: the nodes without an owner. -/

namespace Sys2Proof.Machine

/-- Settles O39, by the search for the least key. -/
theorem extractMinTakesTheLeastKey : Obligations.ExtractMinTakesTheLeastKey := by
  unfold Obligations.ExtractMinTakesTheLeastKey
  intro s hne
  obtain ⟨hmem, hleast⟩ := queueMin_spec s.node hne
  exact ⟨hmem, fun j hj hj' => before_iff.1 (hleast j hj hj'), rfl⟩

/-! ### The nodes that were queued when a node was made -/

/-- The children of node `i` are the two least of the nodes that were queued when it was made, the least on the
left (R125, R126). -/
def LeastPairAt (s : State) (n i : Nat) : Prop :=
  queuedAt s n i (nodeAt s i).left.toNat ∧ queuedAt s n i (nodeAt s i).right.toNat ∧
  (∀ j, queuedAt s n i j → j ≠ (nodeAt s i).left.toNat → keyBefore s (nodeAt s i).left.toNat j) ∧
  (∀ j, queuedAt s n i j → j ≠ (nodeAt s i).left.toNat → j ≠ (nodeAt s i).right.toNat →
    keyBefore s (nodeAt s i).right.toNat j)

/-- Which nodes were queued is fixed by the nodes made before. -/
theorem queuedAt_congr {s t : State} {i : Nat} (hat : ∀ k, k < i → nodeAt t k = nodeAt s k) (n j : Nat) :
    queuedAt t n i j ↔ queuedAt s n i j := by
  refine and_congr_right fun _ => forall₂_congr fun k hk => ?_
  rw [isChild, hat k hk]

/-- The children of a node, and that they were the least, are fixed by it and the nodes made before. -/
theorem LeastPairAt.congr {s t : State} {n i : Nat} (h : LeastPairAt s n i)
    (hat : ∀ k, k ≤ i → nodeAt t k = nodeAt s k) : LeastPairAt t n i := by
  have hqueued := queuedAt_congr (n := n) fun k hk => hat k hk.le
  have hkey : ∀ a b, a < i → b < i → keyBefore s a b → keyBefore t a b := by
    intro a b ha hb hab
    rwa [keyBefore, hat a ha.le, hat b hb.le]
  obtain ⟨hl, hr, hleast, hnext⟩ := h
  rw [LeastPairAt, hat i le_rfl]
  simp only [hqueued]
  exact ⟨hl, hr, fun j hj hne => hkey _ _ hl.1 hj.1 (hleast j hj hne),
    fun j hj hne hne' => hkey _ _ hr.1 hj.1 (hnext j hj hne hne')⟩

/-- The queue order is that of the composite keys (R13). -/
theorem keyBefore_iff_before {s : State} {a b : Nat} : keyBefore s a b ↔ before s.node a b = true := by
  rw [before_iff, weightOf_eq_nodeAt, weightOf_eq_nodeAt]

section Merge
variable {n : Nat} {s : State}

/-- The nodes without an owner are the queue. -/
theorem Forest.queuedAt_next (h : Forest n s) {j : Nat} : queuedAt s n s.work.next j ↔ j ∈ s.work.inq := by
  have hnil : (∀ k, k < s.work.next → n ≤ k → ¬ isChild s j k) ↔ owners s n s.work.next j = [] := by
    simp [owners]
  rw [queuedAt, hnil, ← List.length_eq_zero_iff]
  constructor
  · rintro ⟨hj, hzero⟩
    by_contra hout
    rw [h.owned j hj, if_neg hout] at hzero
    exact one_ne_zero hzero
  · intro hmem
    have hj := h.form.1 j hmem
    exact ⟨hj, by rw [h.owned j hj, if_pos hmem]⟩

theorem Forest.toNat_left_new (h : Forest n s) :
    (nodeAt (mergeTurn s) s.work.next).left.toNat = leftOf s := by
  rw [nodeAt_mergeTurn_new]; exact h.child_toNat h.left_lt

theorem Forest.toNat_right_new (h : Forest n s) (hq : 1 < s.work.qcnt) :
    (nodeAt (mergeTurn s) s.work.next).right.toNat = rightOf s := by
  rw [nodeAt_mergeTurn_new]; exact h.child_toNat (h.right_lt hq)

/-- A merge leaves the order of the nodes made before it. -/
theorem keyBefore_mergeTurn {a b : Nat} (ha : a < s.work.next) (hb : b < s.work.next)
    (h : before s.node a b = true) : keyBefore (mergeTurn s) a b := by
  rw [keyBefore, nodeAt_mergeTurn_of_lt ha, nodeAt_mergeTurn_of_lt hb]
  exact keyBefore_iff_before.2 h

/-- The two extractions of a merge give the two least nodes of the queue (R125 to R127). -/
theorem Forest.leastPairAt_new (h : Forest n s) (hq : 1 < s.work.qcnt) :
    LeastPairAt (mergeTurn s) n s.work.next := by
  have hqueued : ∀ j, queuedAt (mergeTurn s) n s.work.next j ↔ j ∈ s.work.inq := fun j =>
    (queuedAt_congr (fun k hk => nodeAt_mergeTurn_of_lt hk) n j).trans h.queuedAt_next
  rw [LeastPairAt, h.toNat_left_new, h.toNat_right_new hq]
  simp only [hqueued]
  refine ⟨h.left_mem, (h.right_mem hq).1, fun j hj hne => ?_, fun j hj hne hne' => ?_⟩
  · exact keyBefore_mergeTurn h.left_lt (h.form.1 j hj) ((queueMin_spec s.node h.inq_ne_nil).2 j hj hne)
  · have hrest : j ∈ (extractMin s).2.work.inq := h.nodup.mem_erase_iff.2 ⟨hne, hj⟩
    exact keyBefore_mergeTurn (h.right_lt hq) (h.form.1 j hj)
      ((queueMin_spec s.node (h.rest_ne_nil hq)).2 j hrest hne')

/-- While the tree is made, every internal node made so far took the two least. -/
theorem mergeTurn_leastPairs (h : Forest n s) (hq : 1 < s.work.qcnt)
    (hpairs : ∀ i, n ≤ i → i < s.work.next → LeastPairAt s n i) :
    ∀ i, n ≤ i → i < (mergeTurn s).work.next → LeastPairAt (mergeTurn s) n i := by
  intro i hn hi
  rcases Nat.lt_succ_iff_lt_or_eq.1 hi with hlt | rfl
  · exact (hpairs i hn hlt).congr fun k hk => nodeAt_mergeTurn_of_lt (hk.trans_lt hlt)
  · exact h.leastPairAt_new hq

end Merge

/-! ### BUILD -/

/-- A tree has at most as many leaves as there are symbol values (R5). -/
theorem maxLeaf_le_of_valid {c : Config} (hc : c.Valid) : c.maxLeaf ≤ 2 ^ 31 := by
  obtain ⟨⟨-, hsymW⟩, -, ⟨-, hnsymv⟩, -⟩ := hc
  exact hnsymv.trans (Nat.pow_le_pow_right (by decide) hsymW)

/-- A BUILD that succeeds is the seed scan, the merges and the end (R120); what the scan makes are at least one leaf
and at most as many as there are symbol values. -/
theorem buildEngine_of_treeValid {s : State} (hc : s.cfg.Valid) (h : (buildEngine s).treeValid = true) :
    ∃ ls t, ls ≠ [] ∧ ls.length ≤ 2 ^ 31 ∧ SeededWith ls t ∧
      buildEngine s = finishBuild ls.length (mergeLoop t.work.qcnt t) := by
  rcases buildEngine_cases s with ⟨hb, -⟩ | ⟨-, -, t, ht, hne, -, hfin⟩
  · rw [hb] at h; exact absurd h Bool.false_ne_true
  · obtain ⟨ls, hseed, -, hmax⟩ := seedLoop_leafList ht
    have hsmall := hmax.trans (maxLeaf_le_of_valid hc)
    rw [hseed.next] at hne hfin
    exact ⟨ls, t, List.ne_nil_of_length_pos (Nat.pos_of_ne_zero hne), hsmall, hseed, hfin⟩

/-- Every internal node of a BUILD that succeeds took the two least of the queue. -/
theorem buildEngine_leastPairs {s : State} (hc : s.cfg.Valid) (h : (buildEngine s).treeValid = true) :
    ∀ i, leaves (buildEngine s) ≤ i → i < (buildEngine s).nnode.toNat →
      LeastPairAt (buildEngine s) (leaves (buildEngine s)) i := by
  obtain ⟨ls, t, hne, hsmall, hseed, hfin⟩ := buildEngine_of_treeValid hc h
  obtain ⟨-, hpairs⟩ := mergeLoop_induct
    (P := fun u => Forest ls.length u ∧ ∀ i, ls.length ≤ i → i < u.work.next → LeastPairAt u ls.length i)
    (fun u ⟨hforest, hpairs⟩ hq => ⟨mergeTurn_forest hforest hq, mergeTurn_leastPairs hforest hq hpairs⟩)
    t.work.qcnt ⟨hseed.forest hne hsmall, fun i hn hi => absurd (hseed.next ▸ hi) hn.not_gt⟩
  have hn : leaves (buildEngine s) = ls.length := by
    rw [hfin]; exact wordOf_toNat (hsmall.trans_lt (by decide))
  have hnnode : (buildEngine s).nnode.toNat ≤ (mergeLoop t.work.qcnt t).work.next := by
    rw [hfin]; exact (BitVec.toNat_ofNat _ _).trans_le (Nat.mod_le _ _)
  have hat : ∀ k, nodeAt (buildEngine s) k = nodeAt (mergeLoop t.work.qcnt t) k := by rw [hfin]; exact fun _ => rfl
  rw [hn]
  exact fun i hle hi => (hpairs i hle (hi.trans_le hnnode)).congr fun k _ => hat k

/-- Settles O38: the fields of the new nodes are those of the tree invariant, and each took the two least. -/
theorem everyMergeTakesTheTwoLeast : Obligations.EveryMergeTakesTheTwoLeast := by
  unfold Obligations.EveryMergeTakesTheTwoLeast
  intro s t i hc hclear ht hvalid hn hi
  obtain rfl := Host.Outcome.next.inj ((exec_build_clear hclear).symm.trans ht)
  obtain ⟨⟨-, -, hnnode, -⟩, hlisted, -, hinternals, -⟩ := buildEngine_treeInv hc hvalid
  obtain ⟨hl, hr, hleast, hnext⟩ := buildEngine_leastPairs hc hvalid i hn hi
  have hi' : i < 2 * leaves (buildEngine s) - 1 := hnnode ▸ hi
  obtain ⟨hleaf, hsym, -, -, hne, hw⟩ := hinternals i hi' hn
  exact ⟨hlisted i hi', hleaf, hsym, hl, hr, hne, hw, hleast, hnext⟩

end Sys2Proof.Machine
end

section
/-! PROOF. O44, O42, O43: the errors of BUILD. How BUILD ends is read off the table: no symbol, too many symbols, too
great a total, or a tree. -/

namespace Sys2Proof.Machine

/-! ### Every error of BUILD (R132) -/

/-- A BUILD that raises leaves no tree, and nothing that is not the tree's changes (R132). -/
theorem buildEngine_of_latched {s : State} (hclear : s.err.code = 0#4) (h : (buildEngine s).latched) :
    buildEngine s = { s with
      treeValid := false, codesValid := false, nleaf := 0#32, nnode := 0#32, root := nilIndex,
      cur := nilIndex, err := (buildEngine s).err, node := (buildEngine s).node,
      work := (buildEngine s).work, draws := (buildEngine s).draws } := by
  rcases buildEngine_cases s with ⟨hb, -⟩ | ⟨-, hb, -⟩
  · exact hb
  · rw [hb] at h; exact absurd hclear h

/-- A BUILD that leaves a tree has raised nothing. -/
theorem buildEngine_not_latched {s : State} (hclear : s.err.code = 0#4) (h : (buildEngine s).treeValid = true) :
    ¬ (buildEngine s).latched := fun hlatched => by
  rw [buildEngine_of_latched hclear hlatched] at h
  exact Bool.false_ne_true h

theorem latched_of_err {s : State} {e : ErrLatch} (h : s.err = e) (he : e.code ≠ 0#4) : s.latched := by
  rwa [State.latched, h]

/-- Settles O44, by the frame of BUILD. -/
theorem failedBuildLeavesNoTree : Obligations.FailedBuildLeavesNoTree := by
  unfold Obligations.FailedBuildLeavesNoTree
  intro s t hclear ht hlatched
  obtain rfl := Host.Outcome.next.inj ((exec_build_clear hclear).symm.trans ht)
  rw [buildEngine_of_latched hclear hlatched]; rfl

/-! ### The seed scan of a defined table (R122, R124) -/

/-- The seed scan of the table of `s` has looked at the symbols below `k` and made the leaves of those present. -/
structure Scanned (s : State) (k : Nat) (u : State) : Prop where
  cfg : u.cfg = s.cfg
  freq : u.freq = s.freq
  scan : u.work.scan = k
  seeded : SeededWith (presentLeaves s k) u
  room : (presentLeaves s k).length ≤ s.cfg.maxLeaf

theorem startBuild_scanned (s : State) : Scanned s 0 (startBuild s) :=
  ⟨rfl, rfl, rfl, startBuild_seededWith s, Nat.zero_le _⟩

/-- A count that has been written is read as it stands. -/
theorem Scanned.readFreq_eq {s u : State} {k : Nat} (h : Scanned s k u) (hk : (s.freq.read k).isSome = true) :
    readFreq u.work.scan u = (freqAt s k, u) := by
  obtain ⟨v, hv⟩ := Option.isSome_iff_exists.1 hk
  exact readElem_of_read (by simp [h.freq, h.scan, freqAt, hv])

/-- A turn that goes on makes the leaf of a symbol that is present. -/
theorem Scanned.next {s u v : State} {k : Nat} (h : Scanned s k u) (hk : (s.freq.read k).isSome = true)
    (hv : seedTurn u = .running v) : Scanned s (k + 1) v := by
  have hread := h.readFreq_eq hk
  obtain ⟨hcfg, hfreq, rfl, hseed, hroom⟩ := h
  rcases seedTurn_cases u with ⟨hf, ht⟩ | ⟨-, -, ht⟩ | ⟨hf, hnext, ht⟩ <;> rw [ht] at hv <;> cases hv <;>
    rw [hread] at hf ⊢
  · rw [← presentLeaves_succ_absent hf] at hseed hroom
    exact ⟨hcfg, hfreq, rfl, hseed.after_advanceScan, hroom⟩
  · rw [hseed.next, hcfg] at hnext
    have hsucc := presentLeaves_succ_present hf
    refine ⟨by simpa [seedLeaf] using hcfg, by simpa [seedLeaf] using hfreq, by simp [seedLeaf], ?_, ?_⟩ <;>
      rw [hsucc]
    · exact (hseed.after_seedLeaf _).after_advanceScan
    · rw [List.length_append, List.length_singleton]
      omega

/-- A symbol that is present, with the leaves of `n` symbols before it, is number `n` of those present. -/
theorem present_getElem?_of_full {s : State} {k n : Nat} (hk : k < s.cfg.nsymv) (hf : freqAt s k ≠ 0)
    (hn : (presentLeaves s k).length = n) : (present s)[n]? = some k := by
  have hsplit : present s = (List.range k).filter (fun x => freqAt s x != 0) ++
      k :: ((List.range s.cfg.nsymv).drop (k + 1)).filter (fun x => freqAt s x != 0) := by
    have htake : (List.range s.cfg.nsymv).take (k + 1) = List.range k ++ [k] := by
      rw [List.take_range, Nat.min_eq_left hk, List.range_succ]
    conv_lhs => rw [present, ← List.take_append_drop (k + 1) (List.range s.cfg.nsymv), htake]
    simp [hf]
  rw [presentLeaves, List.length_map] at hn
  rw [hsplit, List.getElem?_append_right hn.le, hn, Nat.sub_self]
  rfl

/-- The latch after CapacityExceeded 2 of BUILD, where `x` is the first symbol too many (R124). -/
def tooManySymbols (c : Config) (x : Nat) : ErrLatch := ⟨5#4, 2#4, 0x02#8, wordOf c.maxLeaf, wordOf x⟩

/-- A turn that raises does so at the first symbol too many. -/
theorem Scanned.raised {s u v : State} {k : Nat} (h : Scanned s k u) (hlt : k < s.cfg.nsymv)
    (hk : (s.freq.read k).isSome = true) (hv : seedTurn u = .raised v) :
    (present s)[s.cfg.maxLeaf]? = some k ∧ v.err = tooManySymbols s.cfg k := by
  have hread := h.readFreq_eq hk
  obtain ⟨hcfg, -, rfl, hseed, -⟩ := h
  rcases seedTurn_cases u with ⟨-, ht⟩ | ⟨hf, hfull, ht⟩ | ⟨-, -, ht⟩ <;> rw [ht] at hv <;> cases hv
  rw [hread] at hf
  rw [hseed.next, hcfg] at hfull
  exact ⟨present_getElem?_of_full hlt hf hfull, by rw [raise_err, hcfg]; rfl⟩

/-- The seed scan of a defined table makes the leaves of the symbols present, or raises at the first symbol too
many. -/
theorem seedLoop_defined {s : State} (hdef : FreqDefined s) :
    (∀ t, Pass.loop seedTurn s.cfg.nsymv (startBuild s) = .running t → Scanned s s.cfg.nsymv t) ∧
    (∀ t, Pass.loop seedTurn s.cfg.nsymv (startBuild s) = .raised t →
      ∃ x, (present s)[s.cfg.maxLeaf]? = some x ∧ t.err = tooManySymbols s.cfg x) :=
  Pass.loop_count_lt (P := Scanned s) s.cfg.nsymv (fun k hk _ _ hu => hu.next (hdef k hk))
    (fun k hk _ _ hu hv => ⟨k, hu.raised hk (hdef k hk) hv⟩) (startBuild s) (startBuild_scanned s)

theorem Scanned.length_present_le {s t : State} (h : Scanned s s.cfg.nsymv t) :
    (present s).length ≤ s.cfg.maxLeaf := by
  have hroom := h.room
  rwa [presentLeaves_nsymv, List.length_map] at hroom

/-! ### How BUILD of a defined table ends (R123, R124, R128) -/

/-- More symbols than a tree has room for (R124). -/
theorem buildEngine_err_of_tooMany {s : State} {x : Nat} (hdef : FreqDefined s)
    (hx : (present s)[s.cfg.maxLeaf]? = some x) : (buildEngine s).err = tooManySymbols s.cfg x := by
  obtain ⟨hrun, hraise⟩ := seedLoop_defined hdef
  cases hl : Pass.loop seedTurn s.cfg.nsymv (startBuild s) with
  | running t =>
    have hlt := (List.getElem?_eq_some_iff.1 hx).1
    exact absurd (hrun t hl).length_present_le hlt.not_ge
  | raised t =>
    obtain ⟨y, hy, herr⟩ := hraise t hl
    rw [Option.some.inj (hx.symm.trans hy)]
    simpa only [buildEngine, hl] using herr

/-- What follows the seed scan, where the symbols present fit into a tree. -/
theorem buildEngine_of_fits {s : State} (hdef : FreqDefined s) (hmax : (present s).length ≤ s.cfg.maxLeaf) :
    ∃ t, buildEngine s = afterSeed t ∧ t.cfg = s.cfg ∧ t.work.next = (present s).length ∧
      t.work.total = freqSum s := by
  obtain ⟨t, hl, hcfg, hseed⟩ := seedLoop_present hdef hmax
  refine ⟨t, by simp only [buildEngine, hl], hcfg, ?_, ?_⟩
  · rw [hseed.next, presentLeaves_nsymv, List.length_map]
  · rw [hseed.total, presentLeaves_weight]

/-- No symbol at all (R123). -/
theorem buildEngine_err_of_empty {s : State} (hdef : FreqDefined s) (hnil : present s = []) :
    (buildEngine s).err = ⟨1#4, 0#4, 0x02#8, 0#32, 0#32⟩ := by
  obtain ⟨t, hb, -, hnext, -⟩ := buildEngine_of_fits hdef (hnil ▸ Nat.zero_le _)
  rw [hnil, List.length_nil] at hnext
  rw [hb, afterSeed, if_pos hnext]
  rfl

/-- The latch after CapacityExceeded 3 of BUILD with `n` symbols (R124). -/
def tooGreatATotal (n : Nat) : ErrLatch := ⟨5#4, 3#4, 0x02#8, wordOf n, 0#32⟩

/-- Counts that sum to more than a weight can be (R124). -/
theorem buildEngine_err_of_tooGreat {s : State} (hdef : FreqDefined s) (hne : present s ≠ [])
    (hmax : (present s).length ≤ s.cfg.maxLeaf) (hsum : s.cfg.wmax < freqSum s) :
    (buildEngine s).err = tooGreatATotal (present s).length := by
  obtain ⟨t, hb, hcfg, hnext, htotal⟩ := buildEngine_of_fits hdef hmax
  have hpos := List.length_pos_of_ne_nil hne
  rw [hb, afterSeed, if_neg (by omega), if_pos (by rw [htotal, hcfg]; exact hsum), hnext]
  rfl

/-- What a table can be to BUILD. -/
theorem table_cases (s : State) :
    (∃ x, (present s)[s.cfg.maxLeaf]? = some x) ∨ present s = [] ∨
    (present s ≠ [] ∧ (present s).length ≤ s.cfg.maxLeaf ∧ s.cfg.wmax < freqSum s) ∨
    (present s ≠ [] ∧ (present s).length ≤ s.cfg.maxLeaf ∧ freqSum s ≤ s.cfg.wmax) := by
  rcases Nat.lt_or_ge s.cfg.maxLeaf (present s).length with hlt | hle
  · exact .inl ⟨_, List.getElem?_eq_getElem hlt⟩
  · rcases eq_or_ne (present s) [] with hnil | hne
    · exact .inr (.inl hnil)
    · rcases Nat.lt_or_ge s.cfg.wmax (freqSum s) with hsum | hsum
      · exact .inr (.inr (.inl ⟨hne, hle, hsum⟩))
      · exact .inr (.inr (.inr ⟨hne, hle, hsum⟩))

/-- A BUILD that raises completes, with no tree and the table as it was. -/
theorem exec_build_of_err {s : State} {e : ErrLatch} (hclear : s.err.code = 0#4) (h : (buildEngine s).err = e)
    (he : e.code ≠ 0#4) : ∃ t : State, exec .build s = .next t ∧ t.err = e ∧ t.treeValid = false ∧
      t.freq = s.freq ∧ t.resp = okWrite := by
  have hb := buildEngine_of_latched hclear (latched_of_err h he)
  exact ⟨_, exec_build_clear hclear, h, (congrArg State.treeValid hb :), (congrArg State.freq hb :), rfl⟩

/-- Settles O42: no symbol is present, so the scan makes no leaf. -/
theorem buildOfEmptyTableIsEmptyAlphabet : Obligations.BuildOfEmptyTableIsEmptyAlphabet := by
  unfold Obligations.BuildOfEmptyTableIsEmptyAlphabet
  intro s hclear hzero
  have hdef : FreqDefined s := fun x hx => by rw [hzero x hx]; rfl
  have hnil : present s = [] := by
    refine List.filter_eq_nil_iff.2 fun x hx => ?_
    simp [freqAt, hzero x (List.mem_range.1 hx)]
  have herr := buildEngine_err_of_empty hdef hnil
  refine ⟨_, exec_build_clear hclear, ?_⟩
  have hb := buildEngine_of_latched hclear (latched_of_err herr (by decide))
  rw [herr] at hb
  rw [hb]; rfl

/-- Settles O43: the scan raises at the first symbol too many, and what follows it at too great a total. -/
theorem buildBeyondCapacityIsCapacityExceeded : Obligations.BuildBeyondCapacityIsCapacityExceeded := by
  unfold Obligations.BuildBeyondCapacityIsCapacityExceeded
  intro s hclear hdef
  refine ⟨fun x hx => ?_, fun hpos hmax hsum => ?_⟩
  · exact exec_build_of_err hclear (buildEngine_err_of_tooMany hdef hx) (by simp)
  · have hne : present s ≠ [] := List.ne_nil_of_length_pos hpos
    exact exec_build_of_err hclear (buildEngine_err_of_tooGreat hdef hne hmax hsum) (by simp)

end Sys2Proof.Machine
end

section
/-! PROOF. O40, O41: the tree that BUILD makes of a table. The root weighs the sum of all counts, and the tree is
fixed by the table: two blocks that hold the same nodes and the same queue merge alike. -/

namespace Sys2Proof.Machine

/-! ### The weight of the tree (R188) -/

/-- A BUILD that succeeds has a table within capacity. -/
theorem present_of_treeValid {s : State} (hclear : s.err.code = 0#4) (hdef : FreqDefined s)
    (h : (buildEngine s).treeValid = true) :
    present s ≠ [] ∧ (present s).length ≤ s.cfg.maxLeaf ∧ freqSum s ≤ s.cfg.wmax := by
  have hclean := buildEngine_not_latched hclear h
  rcases table_cases s with ⟨x, hx⟩ | hnil | ⟨hne, hmax, hsum⟩ | hfits
  · exact absurd (latched_of_err (buildEngine_err_of_tooMany hdef hx) (by simp [tooManySymbols])) hclean
  · exact absurd (latched_of_err (buildEngine_err_of_empty hdef hnil) (by simp)) hclean
  · exact absurd (latched_of_err (buildEngine_err_of_tooGreat hdef hne hmax hsum) (by simp [tooGreatATotal])) hclean
  · exact hfits

/-- The merges keep the weight of the leaves, which is the sum of all counts. -/
theorem weight_root_buildEngine {s : State} (hc : s.cfg.Valid) (hclear : s.err.code = 0#4) (hdef : FreqDefined s)
    (h : (buildEngine s).treeValid = true) :
    (nodeAt (buildEngine s) (buildEngine s).root.toNat).w = freqSum s := by
  obtain ⟨hne, hmax, hsum⟩ := present_of_treeValid hclear hdef h
  obtain ⟨t, hseed, hbuild⟩ := buildEngine_of_present hdef hne hmax hsum
  have hlen : (presentLeaves s s.cfg.nsymv).length = (present s).length := by
    rw [presentLeaves_nsymv, List.length_map]
  have hpos := List.length_pos_of_ne_nil hne
  obtain ⟨-, -, -, hweight⟩ := hseed.merged (List.ne_nil_of_length_pos (hlen ▸ hpos))
  obtain ⟨⟨-, -, -, hroot⟩, -⟩ := buildEngine_treeInv hc h
  have hleaves : leaves (buildEngine s) = (present s).length := by
    rw [hbuild]; exact wordOf_toNat ((hmax.trans (maxLeaf_le_of_valid hc)).trans_lt (by decide))
  rw [hleaves, ← hlen] at hroot
  calc (nodeAt (buildEngine s) (buildEngine s).root.toNat).w
      = weightOf (mergeLoop t.work.qcnt t).node (2 * (presentLeaves s s.cfg.nsymv).length - 2) := by
        rw [← weightOf_eq_nodeAt, hroot, hbuild]; rfl
    _ = ((presentLeaves s s.cfg.nsymv).map Node.w).sum := hweight
    _ = freqSum s := presentLeaves_weight s _

/-- Settles O40, by the tree invariant and the weight that the merges keep. -/
theorem builtTreeConservesWeight : Obligations.BuiltTreeConservesWeight := by
  unfold Obligations.BuiltTreeConservesWeight
  intro s t hc hclear hdef ht hvalid
  obtain rfl := Host.Outcome.next.inj ((exec_build_clear hclear).symm.trans ht)
  obtain ⟨⟨-, -, hnnode, -⟩, -, -, hinternals, -⟩ := buildEngine_treeInv hc hvalid
  refine ⟨fun i hn hi => ?_, weight_root_buildEngine hc hclear hdef hvalid⟩
  obtain ⟨-, -, -, -, -, hw⟩ := hinternals i (hnnode ▸ hi) hn
  exact hw

/-! ### Merges of equal arenas (R130) -/

/-- Two blocks have made the same nodes and hold the same queue. -/
structure SameArena (s s' : State) : Prop where
  next : s.work.next = s'.work.next
  inq : s.work.inq = s'.work.inq
  qcnt : s.work.qcnt = s'.work.qcnt
  node : ∀ i, i < s.work.next → s.node.read i = s'.node.read i

theorem SeededWith.sameArena {ls : List Node} {s s' : State} (h : SeededWith ls s) (h' : SeededWith ls s') :
    SameArena s s' where
  next := h.next.trans h'.next.symm
  inq := h.inq.trans h'.inq.symm
  qcnt := h.qcnt.trans h'.qcnt.symm
  node i hi := by
    rw [h.next] at hi
    rw [h.node i hi, h'.node i hi]

/-- The least of a queue is fixed by the weights of its nodes. -/
theorem leastOf_congr {m m' : Memory Node} (q : List Nat) {best : Nat}
    (h : ∀ i ∈ best :: q, weightOf m i = weightOf m' i) : leastOf m best q = leastOf m' best q := by
  induction q generalizing best with
  | nil => rfl
  | cons i q ih =>
    obtain ⟨hbest, hi, hq⟩ : weightOf m best = weightOf m' best ∧ weightOf m i = weightOf m' i ∧
        ∀ j ∈ q, weightOf m j = weightOf m' j := by simpa using h
    have hbefore : before m i best = before m' i best := by simp only [before, hbest, hi]
    rw [leastOf, leastOf, hbefore]
    split <;> exact ih (List.forall_mem_cons.2 ⟨by assumption, hq⟩)

theorem queueMin_congr {m m' : Memory Node} {q : List Nat} (h : ∀ i ∈ q, weightOf m i = weightOf m' i) :
    queueMin m q = queueMin m' q := by
  cases q with
  | nil => rfl
  | cons i q => exact leastOf_congr q h

section Merge
variable {n : Nat} {s s' : State}

theorem SameArena.weightOf_eq (h : SameArena s s') {i : Nat} (hi : i < s.work.next) :
    weightOf s.node i = weightOf s'.node i := by rw [weightOf, weightOf, h.node i hi]

/-- Equal queues of equal nodes give up the same node. -/
theorem extractMin_sameArena (h : SameArena s s') (hform : QueueForm s) :
    (extractMin s).1 = (extractMin s').1 ∧
    SameArena (extractMin s).2 (extractMin s').2 := by
  have hmin : (extractMin s).1 = (extractMin s').1 :=
    (queueMin_congr fun i hi => h.weightOf_eq (hform.1 i hi)).trans (congrArg _ h.inq)
  refine ⟨hmin, h.next, ?_, congrArg (· - 1) h.qcnt, h.node⟩
  exact congrArg₂ List.erase h.inq hmin

/-- A merge of equal arenas makes the same node. -/
theorem mergeTurn_sameArena (hqueue : Queueing n s) (h : SameArena s s') (hq : 1 < s.work.qcnt) :
    SameArena (mergeTurn s) (mergeTurn s') := by
  obtain ⟨hform, -⟩ := extractMin_queue hqueue.form hqueue.inq_ne_nil
  obtain ⟨(hl : leftOf s = leftOf s'), hsame⟩ := extractMin_sameArena h hqueue.form
  obtain ⟨(hr : rightOf s = rightOf s'), hsame'⟩ := extractMin_sameArena hsame hform
  have hnode : mergeNode s.node (leftOf s) (rightOf s) = mergeNode s'.node (leftOf s') (rightOf s') := by
    have hwl := h.weightOf_eq (hqueue.form.1 _ hqueue.left_mem)
    have hwr := h.weightOf_eq (hqueue.form.1 _ (hqueue.right_mem hq).1)
    rw [mergeNode, mergeNode, hwl, hwr, hl, hr]
  refine ⟨congrArg (· + 1) h.next, ?_, congrArg (· + 1) hsame'.qcnt, fun i hi => ?_⟩
  · exact congrArg₂ (fun q k => q ++ [k]) hsame'.inq h.next
  · rw [mergeTurn_next] at hi
    rw [mergeTurn_node, mergeTurn_node, Memory.read_write, Memory.read_write, ← h.next, hnode]
    split
    · rfl
    · exact h.node i (by omega)

theorem mergeLoop_sameArena (k : Nat) (hqueue : Queueing n s) (h : SameArena s s') :
    SameArena (mergeLoop k s) (mergeLoop k s') := by
  induction k generalizing s s' with
  | zero => exact h
  | succ k ih =>
    rw [mergeLoop, mergeLoop, ← h.qcnt]
    split
    · next hq => exact ih (mergeTurn_queueing hqueue hq) (mergeTurn_sameArena hqueue h hq)
    · exact h

end Merge

/-! ### BUILDs of equal tables (R130) -/

/-- Two blocks of equal parameters hold equal tables. -/
structure SameTable (s s' : State) : Prop where
  cfg : s.cfg = s'.cfg
  read : ∀ x, x < s.cfg.nsymv → s.freq.read x = s'.freq.read x

section Table
variable {s s' : State}

theorem SameTable.freqDefined (h : SameTable s s') (hdef : FreqDefined s) : FreqDefined s' := fun x hx => by
  rw [← h.cfg] at hx
  rw [← h.read x hx]
  exact hdef x hx

theorem SameTable.freqAt_eq (h : SameTable s s') {x : Nat} (hx : x < s.cfg.nsymv) : freqAt s x = freqAt s' x := by
  rw [freqAt, h.read x hx]

theorem SameTable.present_eq (h : SameTable s s') : present s = present s' := by
  rw [present, present, ← h.cfg]
  exact List.filter_congr fun x hx => by rw [h.freqAt_eq (List.mem_range.1 hx)]

theorem SameTable.freqSum_eq (h : SameTable s s') : freqSum s = freqSum s' := by
  rw [freqSum, freqSum, ← h.cfg]
  exact congrArg List.sum (List.map_congr_left fun x hx => h.freqAt_eq (List.mem_range.1 hx))

theorem SameTable.presentLeaves_eq (h : SameTable s s') :
    presentLeaves s s.cfg.nsymv = presentLeaves s' s'.cfg.nsymv := by
  rw [presentLeaves_nsymv, presentLeaves_nsymv, ← h.present_eq]
  refine List.map_congr_left fun x hx => ?_
  rw [h.freqAt_eq (List.mem_range.1 (List.mem_filter.1 hx).1)]

end Table

/-- Two blocks have the same tree, in its arena and its registers, and the same error, if any (R130). -/
def SameTree (t t' : State) : Prop :=
  t.treeValid = t'.treeValid ∧ t.nleaf = t'.nleaf ∧ t.nnode = t'.nnode ∧ t.root = t'.root ∧
  (∀ i, i < t.nnode.toNat → t.node.read i = t'.node.read i) ∧
  (t.latched ↔ t'.latched) ∧ (t.latched → t.err = t'.err)

/-- BUILDs that raise the same error leave the same: no tree. -/
theorem sameTree_of_err {s s' : State} {e : ErrLatch} (hclear : s.err.code = 0#4) (hclear' : s'.err.code = 0#4)
    (h : (buildEngine s).err = e) (h' : (buildEngine s').err = e) (he : e.code ≠ 0#4) :
    SameTree (buildEngine s) (buildEngine s') := by
  have hb := buildEngine_of_latched hclear (latched_of_err h he)
  have hb' := buildEngine_of_latched hclear' (latched_of_err h' he)
  rw [hb, hb', h, h']
  exact ⟨rfl, rfl, rfl, rfl, fun i hi => absurd hi (Nat.not_lt_zero i), Iff.rfl, fun _ => rfl⟩

/-- BUILDs of equal tables within capacity make the same tree. -/
theorem SameTable.sameTree_of_fits {s s' : State} (h : SameTable s s') (hclear : s.err.code = 0#4)
    (hclear' : s'.err.code = 0#4) (hdef : FreqDefined s) (hne : present s ≠ [])
    (hmax : (present s).length ≤ s.cfg.maxLeaf) (hsum : freqSum s ≤ s.cfg.wmax) :
    SameTree (buildEngine s) (buildEngine s') := by
  obtain ⟨t, hseed, hbuild⟩ := buildEngine_of_present hdef hne hmax hsum
  rw [h.present_eq] at hne hmax
  rw [h.cfg] at hmax
  rw [h.freqSum_eq, h.cfg] at hsum
  obtain ⟨t', hseed', hbuild'⟩ := buildEngine_of_present (h.freqDefined hdef) hne hmax hsum
  rw [h.presentLeaves_eq] at hseed
  rw [h.present_eq] at hbuild
  have hleaves : presentLeaves s' s'.cfg.nsymv ≠ [] := by simpa [presentLeaves_nsymv] using hne
  have hsame := hseed.sameArena hseed'
  have hmerged := mergeLoop_sameArena t.work.qcnt (hseed.queueing hleaves) hsame
  rw [hsame.qcnt] at hmerged hbuild
  have hlatched := buildEngine_not_latched hclear (by rw [hbuild]; rfl)
  have hlatched' := buildEngine_not_latched hclear' (by rw [hbuild']; rfl)
  refine ⟨?_, ?_, ?_, ?_, ?_, iff_of_false hlatched hlatched', fun hl => absurd hl hlatched⟩ <;>
    rw [hbuild, hbuild']
  · rfl
  · rfl
  · exact congrArg wordOf hmerged.next
  · exact congrArg (fun k => wordOf (k - 1)) hmerged.next
  · exact fun i hi => hmerged.node i (hi.trans_le ((BitVec.toNat_ofNat _ _).trans_le (Nat.mod_le _ _)))

/-- BUILDs of equal tables end alike. -/
theorem SameTable.sameTree {s s' : State} (h : SameTable s s') (hclear : s.err.code = 0#4)
    (hclear' : s'.err.code = 0#4) (hdef : FreqDefined s) : SameTree (buildEngine s) (buildEngine s') := by
  have hdef' := h.freqDefined hdef
  rcases table_cases s with ⟨x, hx⟩ | hnil | ⟨hne, hmax, hsum⟩ | ⟨hne, hmax, hsum⟩
  case inl =>
    have hx' : (present s')[s'.cfg.maxLeaf]? = some x := by rwa [← h.present_eq, ← h.cfg]
    exact sameTree_of_err hclear hclear' (buildEngine_err_of_tooMany hdef hx)
      (h.cfg ▸ buildEngine_err_of_tooMany hdef' hx') (by simp [tooManySymbols])
  case inr.inl =>
    exact sameTree_of_err hclear hclear' (buildEngine_err_of_empty hdef hnil)
      (buildEngine_err_of_empty hdef' (h.present_eq ▸ hnil)) (by simp)
  case inr.inr.inl =>
    have herr := buildEngine_err_of_tooGreat hdef hne hmax hsum
    rw [h.present_eq] at hne hmax herr
    rw [h.cfg] at hmax
    rw [h.cfg, h.freqSum_eq] at hsum
    exact sameTree_of_err hclear hclear' herr (buildEngine_err_of_tooGreat hdef' hne hmax hsum)
      (by simp [tooGreatATotal])
  case inr.inr.inr => exact h.sameTree_of_fits hclear hclear' hdef hne hmax hsum

/-- Settles O41: equal tables are seeded alike and merged alike, or raise alike. -/
theorem buildIsAFunctionOfTheTable : Obligations.BuildIsAFunctionOfTheTable := by
  unfold Obligations.BuildIsAFunctionOfTheTable
  intro s s' t t' hclear hclear' hcfg hdef hread ht ht'
  obtain rfl := Host.Outcome.next.inj ((exec_build_clear hclear).symm.trans ht)
  obtain rfl := Host.Outcome.next.inj ((exec_build_clear hclear').symm.trans ht')
  exact SameTable.sameTree ⟨hcfg, hread⟩ hclear hclear' hdef

end Sys2Proof.Machine
end

section
/-! PROOF. O45 and O46: the table GENCODES leaves, read at the leaves' symbols and elsewhere. -/

namespace Sys2Proof.Machine

/-- An accepted GENCODES whose walk ends answers OK (R140). -/
theorem exec_gencodes_clear {s t : State} (hclear : s.err.code = 0#4) (ht : gencodesEngine s = some t) :
    exec .gencodes s = .next (answerWrite t) := by
  simp only [exec, execGencodes, accepted_clear hclear, ht, finish]

/-- With a tree GENCODES writes nothing but the table (R144). -/
theorem gencodesEngine_frame {s t : State} (hvalid : s.treeValid = true) (ht : gencodesEngine s = some t) :
    t = { s with codesValid := true, code := t.code, work := t.work, draws := t.draws } := by
  rcases gencodesEngine_cases ht with ⟨hfalse, -⟩ | ⟨-, hframe⟩
  · simp [hvalid] at hfalse
  · exact hframe

/-- A memory reads nothing at an index that no entry has. -/
theorem Memory.read_eq_none {α : Type} {m : Memory α} {k : Nat} (h : ∀ e ∈ m, e.1 ≠ k) : m.read k = none :=
  Option.eq_none_iff_forall_ne_some.2 fun v hv => h (k, v) (Memory.mem_of_read hv) rfl

/-- Under R52 a symbol of no leaf has no code. -/
theorem CodeInv.read_eq_none {s : State} (h : CodeInv s) (hcodes : s.codesValid = true) {x : Nat}
    (hx : ∀ l, l < leaves s → (nodeAt s l).sym ≠ x) : s.code.read x = none := by
  obtain ⟨-, hsymbols, -⟩ := h hcodes
  refine Memory.read_eq_none fun e he => ?_
  obtain ⟨l, hl, hsym⟩ := hsymbols e he
  exact hsym ▸ hx l hl

/-- Under R52 and two leaves or more the code of a leaf's symbol is the path to the leaf. -/
theorem CodeInv.exists_rootPath {s : State} (h : CodeInv s) (hcodes : s.codesValid = true) (htwo : 2 ≤ leaves s)
    {l : Nat} (hl : l < leaves s) :
    ∃ p, codeOfLeaf s l = some p ∧ follow s.node s.root p = some (wordOf l) := by
  obtain ⟨-, -, hleaves⟩ := h hcodes
  obtain ⟨hsome, -, -, -, hpath⟩ := hleaves l hl
  obtain ⟨p, hp⟩ := Option.isSome_iff_exists.1 hsome
  refine ⟨p, hp, ?_⟩
  simpa only [hp, Option.getD_some] using hpath htwo

/-- Settles O45: the walk ends, its table meets R52, and the tree it is read by is the one GENCODES found. -/
theorem codesAreTheRootPaths : Obligations.CodesAreTheRootPaths := by
  unfold Obligations.CodesAreTheRootPaths
  intro s hclear hvalid h htwo
  obtain ⟨t, ht⟩ := h.exists_gencodesEngine
  have hinv : CodeInv t := gencodesEngine_codeInv h hvalid ht
  have hframe := gencodesEngine_frame hvalid ht
  have hcodes : t.codesValid = true := congrArg State.codesValid hframe
  have hnode : t.node = s.node := (congrArg State.node hframe :)
  have hroot : t.root = s.root := (congrArg State.root hframe :)
  have hleaves : leaves t = leaves s := (congrArg leaves hframe :)
  have hat : ∀ l, nodeAt t l = nodeAt s l := fun l => by rw [nodeAt, hnode]
  refine ⟨answerWrite t, exec_gencodes_clear hclear ht, hcodes, fun l hl => ?path, fun x hx => ?other, ?frame⟩
  case path =>
    obtain ⟨p, hp, hfollow⟩ := hinv.exists_rootPath hcodes (hleaves ▸ htwo) (hleaves ▸ hl)
    exact ⟨p, hat l ▸ hp, hnode ▸ hroot ▸ hfollow⟩
  case other => exact hinv.read_eq_none hcodes fun l hl => hat l ▸ hx l (hleaves ▸ hl)
  case frame => exact congrArg answerWrite hframe

/-- With one leaf GENCODES records "0" for the root's symbol in an empty table, whatever else the arena holds (R143). -/
theorem gencodesEngine_of_one_leaf {s : State} {nd : Node} (hvalid : s.treeValid = true) (hone : s.nleaf = 1#32)
    (hroot : s.node.read s.root.toNat = some nd) :
    gencodesEngine s = some (codesDone (writeCode nd.sym [false] (freshCodes s))) := by
  have hread : readNode (freshCodes s).root.toNat (freshCodes s) = (nd, freshCodes s) := readNode_of_read hroot
  have hfresh : (freshCodes s).nleaf = 1#32 := hone
  simp only [gencodesEngine, hvalid, Bool.true_eq_false, if_false, hfresh, if_true, singleCode, hread]

/-- Settles O46: the table is empty but for the code "0" of the root's symbol. -/
theorem singleSymbolGetsTheCodeZero : Obligations.SingleSymbolGetsTheCodeZero := by
  unfold Obligations.SingleSymbolGetsTheCodeZero
  intro s nd hclear hvalid hone hroot
  have ht := gencodesEngine_of_one_leaf hvalid hone hroot
  refine ⟨_, exec_gencodes_clear hclear ht, rfl, ?zero, fun x hx => ?other, rfl⟩
  case zero => exact Memory.read_write_same [] nd.sym [false]
  case other => exact Memory.read_write_other [] [false] hx

end Sys2Proof.Machine
end

section
/-! PROOF. O48 to O51: ENCODE. The turns over the symbols that have codes and room append those codes one behind the
other; the turn after them, if there is one, raises. With O51 also the length test of DECODE. -/

namespace Sys2Proof.Machine

/-! ### Runs of writes -/

/-- A run of writes in two parts. -/
theorem Memory.writeRun_append {α : Type} (m : Memory α) (k : Nat) (vs ws : List α) :
    m.writeRun k (vs ++ ws) = (m.writeRun k vs).writeRun (k + vs.length) ws := by
  induction vs generalizing m k with
  | nil => rfl
  | cons v vs ih =>
    rw [List.length_cons, ← Nat.add_assoc, Nat.add_right_comm]
    exact ih (m.write k v) (k + 1)

/-- A run of writes from index 0 leaves the run, and above it what was there. -/
theorem Memory.holdsThen_writeRun {α : Type} (m : Memory α) (vs : List α) : HoldsThen (m.writeRun 0 vs) vs m := by
  refine ⟨fun i hi => ?held, fun i hi => ?above⟩ <;> rw [Memory.read_writeRun]
  case held => rw [if_pos (by omega), Nat.sub_zero]
  case above => rw [if_neg (by omega)]

/-- What is held splits at the last element. -/
theorem Holds.of_append_singleton {α : Type} {m : Memory α} {vs : List α} {v : α} (h : Holds m (vs ++ [v])) :
    Holds m vs ∧ m.read vs.length = some v := by
  refine ⟨fun i hi => ?_, ?_⟩
  · rw [h i (by rw [List.length_append]; omega), List.getElem?_append_left hi]
  · rw [h vs.length (by simp), List.getElem?_concat_length]

/-! ### The turns (R150) -/

section Turn
variable {s : State} {x : Nat} {c : Code} (htext : s.text.read s.work.tpos = some x)
include htext

/-- A code that fits is appended (R153). -/
theorem encodeTurn_of_fits (hcode : s.code.read x = some c) (hroom : s.work.bpos + c.length ≤ s.cfg.bitsMax) :
    encodeTurn s = .running (appendCode c s) := by
  simp only [encodeTurn, readText, readElem_of_read htext, lookupCode, hcode, if_neg (not_lt.2 hroom)]

/-- A symbol without a code is unknown (R154). -/
theorem encodeTurn_of_unknown (hcode : s.code.read x = none) :
    encodeTurn s = .raised (raise Instr.encode.opc .unknownSymbol 0#4 (wordOf s.work.tpos) x s) := by
  simp only [encodeTurn, readText, readElem_of_read htext, lookupCode, hcode]

/-- A code that does not fit is not begun (R152 (b)). -/
theorem encodeTurn_of_full (hcode : s.code.read x = some c) (hfull : s.cfg.bitsMax < s.work.bpos + c.length) :
    encodeTurn s = .raised (raise Instr.encode.opc .capacityExceeded 4#4 (wordOf s.work.tpos) x s) := by
  simp only [encodeTurn, readText, readElem_of_read htext, lookupCode, hcode, if_pos hfull]

end Turn

/-! ### The codes appended in source order (R153) -/

/-- What appending the codes `cs` in turn leaves: their concatenation from `BPOS` on. -/
def appendCodes (cs : List Code) (s : State) : State :=
  { s with
    bits := s.bits.writeRun s.work.bpos cs.flatten
    work := { s.work with bpos := s.work.bpos + cs.flatten.length, tpos := s.work.tpos + cs.length } }

theorem appendCodes_nil (s : State) : appendCodes [] s = s := rfl

theorem appendCodes_cons (c : Code) (cs : List Code) (s : State) :
    appendCodes (c :: cs) s = appendCodes cs (appendCode c s) := by
  simp [appendCodes, appendCode, writeBitRun, Memory.writeRun_append, Nat.add_assoc, Nat.add_comm 1]

/-- The turns over symbols that stand in TEXT from `TPOS` on, and whose codes `cs` fit, append `cs` (R153). -/
theorem encodeLoop_of_codes (xs : List Nat) {cs : List Code} {s : State}
    (htext : ∀ i, i < xs.length → s.text.read (s.work.tpos + i) = xs[i]?)
    (hcodes : xs.map s.code.read = cs.map some) (hroom : s.work.bpos + cs.flatten.length ≤ s.cfg.bitsMax) :
    Pass.loop encodeTurn xs.length s = .running (appendCodes cs s) := by
  induction xs generalizing cs s with
  | nil =>
    obtain rfl : cs = [] := List.map_eq_nil_iff.1 hcodes.symm
    rw [appendCodes_nil]; rfl
  | cons x xs ih =>
    cases cs with
    | nil => cases hcodes
    | cons c cs =>
      obtain ⟨hc, hcs⟩ := List.cons.inj hcodes
      rw [List.flatten_cons, List.length_append] at hroom
      have hturn : encodeTurn s = .running (appendCode c s) :=
        encodeTurn_of_fits (htext 0 (Nat.succ_pos _)) hc (by omega)
      have hrest : ∀ i, i < xs.length → s.text.read (s.work.tpos + 1 + i) = xs[i]? := fun i hi => by
        rw [Nat.add_assoc, Nat.add_comm 1 i]
        exact htext (i + 1) (Nat.succ_lt_succ hi)
      have hleft : s.work.bpos + c.length + cs.flatten.length ≤ s.cfg.bitsMax := by omega
      rw [List.length_cons, Pass.loop, hturn, appendCodes_cons]
      exact ih hrest hcs hleft

/-- The symbols `xs` stand at the start of TEXT, and their codes `cs` fit into BITS. -/
structure HasCodes (s : State) (xs : List Nat) (cs : List Code) : Prop where
  text : Holds s.text xs
  codes : xs.map s.code.read = cs.map some
  room : cs.flatten.length ≤ s.cfg.bitsMax

/-- ENCODE as it stands after the codes `cs`. -/
def encoded (cs : List Code) (s : State) : State := appendCodes cs (startEncode s)

theorem encoded_bpos (cs : List Code) (s : State) : (encoded cs s).work.bpos = cs.flatten.length :=
  Nat.zero_add _

theorem encoded_bits (cs : List Code) (s : State) : HoldsThen (encoded cs s).bits cs.flatten s.bits :=
  s.bits.holdsThen_writeRun cs.flatten

theorem HasCodes.encoded_tpos {s : State} {xs : List Nat} {cs : List Code} (h : HasCodes s xs cs) :
    (encoded cs s).work.tpos = xs.length := by
  have hcount : xs.length = cs.length := by simpa using congrArg List.length h.codes
  exact (Nat.zero_add cs.length).trans hcount.symm

/-- The first turns of ENCODE append the codes of such symbols. -/
theorem HasCodes.encodeLoop {s : State} {xs : List Nat} {cs : List Code} (h : HasCodes s xs cs) :
    Pass.loop encodeTurn xs.length (startEncode s) = .running (encoded cs s) := by
  refine encodeLoop_of_codes xs (fun i hi => ?text) h.codes ?room
  case text =>
    rw [show (startEncode s).work.tpos + i = i from Nat.zero_add i]
    exact h.text i hi
  case room =>
    rw [show (startEncode s).work.bpos + cs.flatten.length = cs.flatten.length from Nat.zero_add _]
    exact h.room

/-! ### The command (R150) -/

theorem exec_encode_clear {s : State} (h : s.err.code = 0#4) :
    exec .encode s = .next (answerWrite (encodeEngine s)) :=
  accepted_clear h fun s => finish (encodeEngine s)

section Fits
variable {s u : State} (hvalid : s.codesValid = true) (hlen : s.tlen.toNat ≤ s.cfg.textMax)
include hvalid hlen

/-- A loop that goes through its turns is followed by the end of ENCODE. -/
theorem encodeEngine_of_loop_running (h : Pass.loop encodeTurn s.tlen.toNat (startEncode s) = .running u) :
    encodeEngine s = finishEncode u := by
  have htest : ¬ (startEncode s).tlen.toNat > (startEncode s).cfg.textMax := not_lt.2 hlen
  have hloop : Pass.loop encodeTurn (startEncode s).tlen.toNat (startEncode s) = .running u := h
  simp only [encodeEngine, hvalid, Bool.true_eq_false, if_false, if_neg htest, hloop]

/-- A turn that raises ends ENCODE. -/
theorem encodeEngine_of_loop_raised (h : Pass.loop encodeTurn s.tlen.toNat (startEncode s) = .raised u) :
    encodeEngine s = u := by
  have htest : ¬ (startEncode s).tlen.toNat > (startEncode s).cfg.textMax := not_lt.2 hlen
  have hloop : Pass.loop encodeTurn (startEncode s).tlen.toNat (startEncode s) = .raised u := h
  simp only [encodeEngine, hvalid, Bool.true_eq_false, if_false, if_neg htest, hloop]

/-- ENCODE of symbols with codes leaves the state after those codes and their length in `BLEN` (R155). -/
theorem HasCodes.encodeEngine_of_whole {xs : List Nat} {cs : List Code} (h : HasCodes s xs cs)
    (hwhole : s.tlen.toNat = xs.length) : encodeEngine s = finishEncode (encoded cs s) :=
  encodeEngine_of_loop_running hvalid hlen (hwhole ▸ h.encodeLoop)

/-- ENCODE ends at the first turn that raises, here the one after the symbols `xs`. -/
theorem HasCodes.encodeEngine_of_raised {xs : List Nat} {cs : List Code} (h : HasCodes s xs cs)
    (hmore : xs.length < s.tlen.toNat) (hturn : encodeTurn (encoded cs s) = .raised u) : encodeEngine s = u := by
  obtain ⟨n, hn⟩ := Nat.exists_eq_add_of_lt hmore
  refine encodeEngine_of_loop_raised hvalid hlen ?_
  rw [hn, Nat.add_assoc, Pass.loop_add _ _ _ _ _ h.encodeLoop, Pass.loop, hturn]

end Fits

/-- Settles O48: one turn a symbol appends its code, and the end writes `BLEN`. -/
theorem encodeConcatenatesTheCodes : Obligations.EncodeConcatenatesTheCodes := by
  unfold Obligations.EncodeConcatenatesTheCodes
  intro s xs cs hclear hvalid htext hlen hcodes hroom
  obtain ⟨htlen, hholds⟩ := htext
  have hengine := HasCodes.encodeEngine_of_whole hvalid (htlen ▸ hlen) ⟨hholds, hcodes, hroom⟩ htlen
  refine ⟨_, exec_encode_clear hclear, ?_⟩
  rw [hengine]
  exact ⟨congrArg wordOf (encoded_bpos cs s), encoded_bits cs s, rfl⟩

/-- Settles O49: the turn at the symbol without a code raises. -/
theorem firstSymbolWithoutCodeIsUnknown : Obligations.FirstSymbolWithoutCodeIsUnknown := by
  unfold Obligations.FirstSymbolWithoutCodeIsUnknown
  intro s xs cs x hclear hvalid htext hmore hlen hcodes hroom hnone
  obtain ⟨hxs, hx⟩ := htext.of_append_singleton
  have h : HasCodes s xs cs := ⟨hxs, hcodes, hroom⟩
  have hread : (encoded cs s).text.read (encoded cs s).work.tpos = some x := h.encoded_tpos ▸ hx
  have hengine := h.encodeEngine_of_raised hvalid hlen hmore (encodeTurn_of_unknown hread hnone)
  refine ⟨_, exec_encode_clear hclear, ?_⟩
  rw [hengine, h.encoded_tpos]
  exact ⟨rfl, rfl, encoded_bits cs s, rfl⟩

/-- Settles O50: the turn at the code that does not fit raises. -/
theorem firstCodeThatDoesNotFitIsCapacityExceeded : Obligations.FirstCodeThatDoesNotFitIsCapacityExceeded := by
  unfold Obligations.FirstCodeThatDoesNotFitIsCapacityExceeded
  intro s xs cs x c hclear hvalid htext hmore hlen hcodes hroom hcode hbeyond
  obtain ⟨hxs, hx⟩ := htext.of_append_singleton
  have h : HasCodes s xs cs := ⟨hxs, hcodes, hroom⟩
  have hread : (encoded cs s).text.read (encoded cs s).work.tpos = some x := h.encoded_tpos ▸ hx
  have hfull : (encoded cs s).cfg.bitsMax < (encoded cs s).work.bpos + c.length := encoded_bpos cs s ▸ hbeyond
  have hengine := h.encodeEngine_of_raised hvalid hlen hmore (encodeTurn_of_full hread hcode hfull)
  refine ⟨_, exec_encode_clear hclear, ?_⟩
  rw [hengine, h.encoded_tpos]
  exact ⟨rfl, rfl, encoded_bits cs s, rfl⟩

/-! ### The length tests (R152 (a), R162 (a)) -/

/-- ENCODE of a text beyond capacity raises before it reads TEXT. -/
theorem encodeEngine_of_tooLong {s : State} (hvalid : s.codesValid = true) (h : s.cfg.textMax < s.tlen.toNat) :
    encodeEngine s = raise Instr.encode.opc .capacityExceeded 1#4 s.tlen 0 (startEncode s) := by
  have htest : (startEncode s).tlen.toNat > (startEncode s).cfg.textMax := h
  simp only [encodeEngine, hvalid, Bool.true_eq_false, if_false, if_pos htest]
  rfl

/-- DECODE of a stream beyond capacity raises before it reads BITS. -/
theorem decodeEngine_of_tooLong {s : State} (hvalid : s.treeValid = true) (h : s.cfg.bitsMax < s.blen.toNat) :
    decodeEngine s = raise Instr.decode.opc .capacityExceeded 1#4 s.blen 0 (startDecode s) := by
  have htest : (startDecode s).blen.toNat > (startDecode s).cfg.bitsMax := h
  simp only [decodeEngine, hvalid, Bool.true_eq_false, if_false, if_pos htest]
  rfl

theorem exec_decode_clear {s : State} (h : s.err.code = 0#4) :
    exec .decode s = .next (answerWrite (decodeEngine s)) :=
  accepted_clear h fun s => finish (decodeEngine s)

/-- Settles O51: both tests come before the loop. -/
theorem lengthAboveCapacityIsCapacityExceeded : Obligations.LengthAboveCapacityIsCapacityExceeded := by
  unfold Obligations.LengthAboveCapacityIsCapacityExceeded
  refine ⟨fun s hclear hvalid hlong => ?encode, fun s hclear hvalid hlong => ?decode⟩
  case encode =>
    rw [exec_encode_clear hclear, encodeEngine_of_tooLong hvalid hlong]
    exact ⟨_, rfl, rfl⟩
  case decode =>
    rw [exec_decode_clear hclear, decodeEngine_of_tooLong hvalid hlong]
    exact ⟨_, rfl, rfl⟩

end Sys2Proof.Machine
end

section
/-! PROOF. O52 to O56: DECODE. After a stream of whole codes the symbols of their leaves stand in OUT and the cursor at
the root; the rest of a stream moves the cursor down, and the turn that cannot emit, or has no code, raises. -/

namespace Sys2Proof.Machine

/-! ### Paths in two parts -/

/-- A path in two parts goes on where the first part ends. -/
theorem follow_append (m : Memory Node) (i : Word) (p q : List Bool) :
    follow m i (p ++ q) = (follow m i p).bind fun j => follow m j q := by
  induction p generalizing i with
  | nil => rfl
  | cons b p ih =>
    cases hi : m.read i.toNat with
    | none => simp [follow, hi]
    | some nd =>
      cases hleaf : nd.leaf with
      | true => simp [follow, hi, hleaf]
      | false => rw [List.cons_append, follow_cons hi hleaf, follow_cons hi hleaf, ih]

theorem follow_append_eq_some {m : Memory Node} {i k : Word} {p q : List Bool} :
    follow m i (p ++ q) = some k ↔ ∃ j, follow m i p = some j ∧ follow m j q = some k := by
  rw [follow_append, Option.bind_eq_some_iff]

/-- One digit leads from an internal node to the child it names. -/
theorem follow_singleton {m : Memory Node} {i j : Word} {b : Bool} (h : follow m i [b] = some j) :
    ∃ nd, m.read i.toNat = some nd ∧ nd.leaf = false ∧ (if b then nd.right else nd.left) = j := by
  cases hi : m.read i.toNat with
  | none => simp [follow, hi] at h
  | some nd =>
    cases hleaf : nd.leaf with
    | true => simp [follow, hi, hleaf] at h
    | false => exact ⟨nd, rfl, hleaf, Option.some.inj ((follow_cons hi hleaf b []).symm.trans h)⟩

/-- Every node on the way to an internal node is internal. -/
theorem internal_of_follow {m : Memory Node} {i k : Word} {q : List Bool} {nd : Node} (h : follow m i q = some k)
    (hk : m.read k.toNat = some nd) (hleaf : nd.leaf = false) :
    ∃ d, m.read i.toNat = some d ∧ d.leaf = false := by
  cases q with
  | nil => obtain rfl := Option.some.inj h; exact ⟨nd, hk, hleaf⟩
  | cons b q =>
    obtain ⟨j, hij, -⟩ := follow_append_eq_some (p := [b]).1 h
    obtain ⟨d, hi, hd, -⟩ := follow_singleton hij
    exact ⟨d, hi, hd⟩

/-- Each digit of a path leads to a node further down in the arena (R51 (c)). -/
theorem Tree.follow_le {s : State} (h : Tree s) {i k : Word} {q : List Bool} (hi : i.toNat < 2 * leaves s - 1)
    (hq : follow s.node i q = some k) : k.toNat + q.length ≤ i.toNat := by
  induction q generalizing i with
  | nil => obtain rfl := Option.some.inj hq; exact le_rfl
  | cons b q ih =>
    obtain ⟨j, hij, hjk⟩ := follow_append_eq_some (p := [b]).1 hq
    obtain ⟨nd, hread, hleaf, hchild⟩ := follow_singleton hij
    obtain rfl := Option.some.inj ((h.read hi).symm.trans hread)
    have hn : leaves s ≤ i.toNat :=
      Nat.le_of_not_lt fun hlt => Bool.false_ne_true (hleaf.symm.trans (h.leaf_of_lt hlt))
    have hlt : j.toNat < i.toNat := h.child_lt hi hn (by rw [← hchild]; cases b; exacts [.inl rfl, .inr rfl])
    have hle := ih (hlt.trans hi) hjk
    rw [List.length_cons]
    omega

/-- What is held is held in part. -/
theorem Holds.of_append {α : Type} {m : Memory α} {vs ws : List α} (h : Holds m (vs ++ ws)) : Holds m vs :=
  fun i hi => by rw [h i (by rw [List.length_append]; omega), List.getElem?_append_left hi]

/-! ### DECODE on its way (R160) -/

/-- DECODE after `n` bits, with the symbols `xs` in OUT and the cursor at `i`. -/
def decoding (xs : List Nat) (n : Nat) (i : Word) (s : State) : State :=
  { startDecode s with
    cur := i
    out := s.out.writeRun 0 xs
    work := { s.work with bpos := n, opos := xs.length } }

@[simp] theorem decoding_cur (xs : List Nat) (n : Nat) (i : Word) (s : State) : (decoding xs n i s).cur = i := rfl

@[simp] theorem decoding_root (xs : List Nat) (n : Nat) (i : Word) (s : State) :
    (decoding xs n i s).root = s.root := rfl

@[simp] theorem moveCur_decoding (j : Word) (xs : List Nat) (n : Nat) (i : Word) (s : State) :
    moveCur j (decoding xs n i s) = decoding xs n j s := rfl

@[simp] theorem nextBit_decoding (xs : List Nat) (n : Nat) (i : Word) (s : State) :
    nextBit (decoding xs n i s) = decoding xs (n + 1) i s := rfl

/-- A symbol for which OUT has room is appended (R162). -/
theorem emit_of_room {s : State} {xs : List Nat} {n : Nat} {i : Word} (x : Nat) (hroom : xs.length < s.cfg.outMax) :
    emit x (decoding xs n i s) = .running (decoding (xs ++ [x]) n i s) := by
  have hne : ¬ (decoding xs n i s).work.opos = (decoding xs n i s).cfg.outMax := hroom.ne
  have hout : s.out.writeRun 0 (xs ++ [x]) = (s.out.writeRun 0 xs).write xs.length x := by
    rw [Memory.writeRun_append, Nat.zero_add]; rfl
  rw [emit, if_neg hne, decoding, decoding, hout, List.length_append]
  rfl

/-- A symbol for which OUT has no room is not written (R162 (b)). -/
theorem emit_of_full {s : State} {xs : List Nat} {n : Nat} {i : Word} (x : Nat) (hfull : xs.length = s.cfg.outMax) :
    emit x (decoding xs n i s) =
      .raised (raise Instr.decode.opc .capacityExceeded 5#4 (wordOf n) x (decoding xs n i s)) :=
  if_pos hfull

/-! ### The turns (R164, R165) -/

/-- The turn at a bit that has been written. -/
theorem decodeTurn_of_read {s : State} {b : Bool} (hbit : s.bits.read s.work.bpos = some b) :
    decodeTurn s = if s.nleaf = 1#32 then singleBit b s else treeBit b s := by
  simp only [decodeTurn, readBits, readElem_of_read hbit]

/-- A node that has been written is read as it stands. -/
theorem readNode_decoding {s : State} {xs : List Nat} {n k : Nat} {i : Word} {nd : Node}
    (h : s.node.read k = some nd) : readNode k (decoding xs n i s) = (nd, decoding xs n i s) :=
  readNode_of_read h

section SingleTurn
variable {s : State} {xs : List Nat} {n : Nat} {b : Bool} {nd : Node} (hone : s.nleaf = 1#32)
  (hbit : s.bits.read n = some b) (hroot : s.node.read s.root.toNat = some nd)
include hone hbit

theorem decodeTurn_single : decodeTurn (decoding xs n s.root s) = singleBit b (decoding xs n s.root s) :=
  (decodeTurn_of_read (s := decoding xs n s.root s) hbit).trans (if_pos hone)

/-- A 1 bit is no code of the single-symbol tree. -/
theorem decodeTurn_single_one (hb : b = true) : decodeTurn (decoding xs n s.root s) =
    .raised (raise Instr.decode.opc .malformedStream 1#4 (wordOf n) 0 (decoding xs n s.root s)) :=
  (decodeTurn_single hone hbit).trans (if_pos hb)

include hroot

/-- A 0 bit emits the symbol. -/
theorem decodeTurn_single_zero (hb : b = false) (hroom : xs.length < s.cfg.outMax) :
    decodeTurn (decoding xs n s.root s) = .running (decoding (xs ++ [nd.sym]) (n + 1) s.root s) := by
  simp only [decodeTurn_single hone hbit, singleBit, hb, Bool.false_eq_true, if_false, decoding_root,
    readNode_decoding hroot, emit_of_room nd.sym hroom, nextBit_decoding]

/-- A 0 bit for which OUT has no room raises. -/
theorem decodeTurn_single_full (hb : b = false) (hfull : xs.length = s.cfg.outMax) :
    decodeTurn (decoding xs n s.root s) =
      .raised (raise Instr.decode.opc .capacityExceeded 5#4 (wordOf n) nd.sym (decoding xs n s.root s)) := by
  simp only [decodeTurn_single hone hbit, singleBit, hb, Bool.false_eq_true, if_false, decoding_root,
    readNode_decoding hroot, emit_of_full nd.sym hfull]

end SingleTurn

section TreeTurn
variable {s : State} {xs : List Nat} {n : Nat} {i j : Word} {b : Bool} {nd : Node} (hmany : s.nleaf ≠ 1#32)
  (hbit : s.bits.read n = some b) (hstep : follow s.node i [b] = some j) (hchild : s.node.read j.toNat = some nd)

include hmany hbit in
theorem decodeTurn_tree : decodeTurn (decoding xs n i s) = treeBit b (decoding xs n i s) :=
  (decodeTurn_of_read (s := decoding xs n i s) hbit).trans (if_neg hmany)

include hmany hbit hstep hchild

/-- At an internal node the cursor rests. -/
theorem decodeTurn_tree_internal (hleaf : nd.leaf = false) :
    decodeTurn (decoding xs n i s) = .running (decoding xs (n + 1) j s) := by
  obtain ⟨d, hi, -, rfl⟩ := follow_singleton hstep
  simp only [decodeTurn_tree hmany hbit, treeBit, decoding_cur, readNode_decoding hi, moveCur_decoding,
    readNode_decoding hchild, hleaf, Bool.false_eq_true, if_false, nextBit_decoding]

/-- At a leaf its symbol is emitted and the cursor goes back to the root. -/
theorem decodeTurn_tree_leaf (hleaf : nd.leaf = true) (hroom : xs.length < s.cfg.outMax) :
    decodeTurn (decoding xs n i s) = .running (decoding (xs ++ [nd.sym]) (n + 1) s.root s) := by
  obtain ⟨d, hi, -, rfl⟩ := follow_singleton hstep
  simp only [decodeTurn_tree hmany hbit, treeBit, decoding_cur, readNode_decoding hi, moveCur_decoding,
    readNode_decoding hchild, hleaf, if_true, emit_of_room nd.sym hroom, decoding_root, nextBit_decoding]

/-- At a leaf for whose symbol OUT has no room the turn raises, and the cursor stays (R168). -/
theorem decodeTurn_tree_full (hleaf : nd.leaf = true) (hfull : xs.length = s.cfg.outMax) :
    decodeTurn (decoding xs n i s) =
      .raised (raise Instr.decode.opc .capacityExceeded 5#4 (wordOf n) nd.sym (decoding xs n j s)) := by
  obtain ⟨d, hi, -, rfl⟩ := follow_singleton hstep
  simp only [decodeTurn_tree hmany hbit, treeBit, decoding_cur, readNode_decoding hi, moveCur_decoding,
    readNode_decoding hchild, hleaf, if_true, emit_of_full nd.sym hfull]

end TreeTurn

/-! ### Streams -/

/-- The first turns of DECODE read the bits `bs`, which put the symbols `xs` into OUT and the cursor at `i`. -/
def Decodes (s : State) (bs : List Bool) (xs : List Nat) (i : Word) : Prop :=
  Pass.loop decodeTurn bs.length (startDecode s) = .running (decoding xs bs.length i s)

theorem Decodes.nil (s : State) : Decodes s [] [] s.root := rfl

section Stream
variable {s : State} {bs : List Bool} {xs ys : List Nat} {i k : Word}

/-- One more bit. -/
theorem Decodes.append_singleton (h : Decodes s bs xs i) (b : Bool)
    (hturn : decodeTurn (decoding xs bs.length i s) = .running (decoding ys (bs.length + 1) k s)) :
    Decodes s (bs ++ [b]) ys k := by
  rw [Decodes, List.length_append, List.length_singleton, Pass.loop_add _ _ _ _ _ h, Pass.loop, hturn]
  rfl

/-- A 0 bit under the single-symbol tree, again and again (R165). -/
theorem decodes_replicate_false {nd : Node} {n : Nat} (hone : s.nleaf = 1#32)
    (hroot : s.node.read s.root.toNat = some nd) (hbits : Holds s.bits (List.replicate n false))
    (hroom : n ≤ s.cfg.outMax) : Decodes s (List.replicate n false) (List.replicate n nd.sym) s.root := by
  induction n with
  | zero => exact .nil s
  | succ n ih =>
    rw [List.replicate_succ'] at hbits
    obtain ⟨hbefore, hbit⟩ := hbits.of_append_singleton
    have hturn := decodeTurn_single_zero (xs := List.replicate n nd.sym) hone hbit hroot rfl
      (by rw [List.length_replicate]; exact hroom)
    simpa only [← List.replicate_succ'] using
      (ih hbefore (Nat.le_of_succ_le hroom)).append_singleton false hturn

variable (hmany : s.nleaf ≠ 1#32)
include hmany

/-- The bits of a path to an internal node move the cursor along it (R164). -/
theorem Decodes.append_path (h : Decodes s bs xs i) {q : List Bool} {nd : Node} (hbits : Holds s.bits (bs ++ q))
    (hq : follow s.node i q = some k) (hk : s.node.read k.toNat = some nd) (hleaf : nd.leaf = false) :
    Decodes s (bs ++ q) xs k := by
  induction q generalizing bs i with
  | nil =>
    obtain rfl := Option.some.inj hq
    rwa [List.append_nil]
  | cons b q ih =>
    rw [List.append_cons] at hbits ⊢
    obtain ⟨j, hij, hjk⟩ := follow_append_eq_some (p := [b]).1 hq
    obtain ⟨d, hj, hd⟩ := internal_of_follow hjk hk hleaf
    obtain ⟨-, hbit⟩ := hbits.of_append.of_append_singleton
    exact ih (h.append_singleton b (decodeTurn_tree_internal hmany hbit hij hj hd)) hbits hjk

/-- The bits of a path but for the last move the cursor to the node above its end. -/
theorem Decodes.exists_last_step (h : Decodes s bs xs i) {p : List Bool} (hne : p ≠ [])
    (hbits : Holds s.bits (bs ++ p)) (hp : follow s.node i p = some k) :
    ∃ q b j, p = q ++ [b] ∧ Decodes s (bs ++ q) xs j ∧ follow s.node j [b] = some k ∧
      s.bits.read (bs ++ q).length = some b := by
  obtain ⟨q, b, rfl⟩ := p.eq_nil_or_concat'.resolve_left hne
  obtain ⟨j, hij, hjk⟩ := follow_append_eq_some.1 hp
  obtain ⟨nd, hj, hleaf, -⟩ := follow_singleton hjk
  rw [← List.append_assoc] at hbits
  obtain ⟨hbefore, hbit⟩ := hbits.of_append_singleton
  exact ⟨q, b, j, rfl, h.append_path hmany hbefore hij hj hleaf, hjk, hbit⟩

end Stream

/-! ### Whole codes (R164) -/

section Codes
variable {s : State} (htree : Tree s) (htwo : 2 ≤ leaves s)
include htwo

theorem nleaf_ne_one : s.nleaf ≠ 1#32 := fun h => by
  rw [leaves_of_nleaf_eq_one h] at htwo
  omega

include htree

theorem Tree.read_leaf {l : Nat} (hl : l < leaves s) : s.node.read (wordOf l).toNat = some (nodeAt s l) := by
  rw [htree.wordOf_toNat (by omega), htree.read (by omega)]

/-- The root is no leaf, so no leaf's path is empty. -/
theorem Tree.rootPath_ne_nil {l : Nat} {p : List Bool} (hl : l < leaves s)
    (hp : follow s.node s.root p = some (wordOf l)) : p ≠ [] := by
  rintro rfl
  have hroot := htree.root_toNat
  rw [Option.some.inj hp, htree.wordOf_toNat (by omega)] at hroot
  omega

/-- The bits of a leaf's path put its symbol into OUT, and the cursor goes back to the root. -/
theorem Decodes.append_code {bs p : List Bool} {xs : List Nat} {l : Nat} (h : Decodes s bs xs s.root)
    (hl : l < leaves s) (hp : follow s.node s.root p = some (wordOf l)) (hbits : Holds s.bits (bs ++ p))
    (hroom : xs.length < s.cfg.outMax) : Decodes s (bs ++ p) (xs ++ [(nodeAt s l).sym]) s.root := by
  have hmany := nleaf_ne_one htwo
  obtain ⟨q, b, j, rfl, hq, hstep, hbit⟩ :=
    h.exists_last_step hmany (htree.rootPath_ne_nil htwo hl hp) hbits hp
  rw [← List.append_assoc]
  exact hq.append_singleton b
    (decodeTurn_tree_leaf hmany hbit hstep (htree.read_leaf htwo hl) (htree.leaf_of_lt hl) hroom)

/-- The bits of the paths `ps` of the leaves `ls` put the symbols of `ls` into OUT. -/
theorem Decodes.append_codes {bs : List Bool} {xs ls : List Nat} {ps : List (List Bool)} (h : Decodes s bs xs s.root)
    (hls : ∀ l ∈ ls, l < leaves s) (hps : ps.map (follow s.node s.root) = ls.map fun l => some (wordOf l))
    (hbits : Holds s.bits (bs ++ ps.flatten)) (hroom : xs.length + ls.length ≤ s.cfg.outMax) :
    Decodes s (bs ++ ps.flatten) (xs ++ ls.map fun l => (nodeAt s l).sym) s.root := by
  induction ps generalizing bs xs ls with
  | nil =>
    obtain rfl : ls = [] := List.map_eq_nil_iff.1 hps.symm
    simpa using h
  | cons p ps ih =>
    cases ls with
    | nil => cases hps
    | cons l ls =>
      obtain ⟨hp, hps⟩ := List.cons.inj hps
      obtain ⟨hl, hls⟩ := List.forall_mem_cons.1 hls
      rw [List.length_cons] at hroom
      rw [List.flatten_cons, ← List.append_assoc] at hbits ⊢
      have hcode := h.append_code htree htwo hl hp hbits.of_append (by omega)
      rw [List.map_cons, List.append_cons]
      exact ih hcode hls hps hbits (by rw [List.length_append, List.length_singleton]; omega)

end Codes

/-- A stream that begins with the paths `ps` of the leaves `ls` begins with the symbols of `ls`. -/
theorem Tree.decodes_codes {s : State} (htree : Tree s) (htwo : 2 ≤ leaves s) {ls : List Nat} {ps : List (List Bool)}
    (hls : ∀ l ∈ ls, l < leaves s) (hps : ps.map (follow s.node s.root) = ls.map fun l => some (wordOf l))
    (hbits : Holds s.bits ps.flatten) (hroom : ls.length ≤ s.cfg.outMax) :
    Decodes s ps.flatten (ls.map fun l => (nodeAt s l).sym) s.root :=
  (Decodes.nil s).append_codes htree htwo hls hps hbits (by rwa [List.length_nil, Nat.zero_add])

/-! ### The command (R160, R166) -/

section Command
variable {s : State} {bs : List Bool} {xs : List Nat} {i : Word} (h : Decodes s bs xs i)
  (hvalid : s.treeValid = true) (hlen : s.blen.toNat ≤ s.cfg.bitsMax)
include h hvalid hlen

/-- DECODE of a whole stream ends as the cursor stands. -/
theorem Decodes.decodeEngine_of_whole (hwhole : s.blen.toNat = bs.length) :
    decodeEngine s = finishDecode (decoding xs bs.length i s) := by
  have htest : ¬ (startDecode s).blen.toNat > (startDecode s).cfg.bitsMax := not_lt.2 hlen
  have hloop : Pass.loop decodeTurn (startDecode s).blen.toNat (startDecode s) =
      .running (decoding xs bs.length i s) := (congrArg (Pass.loop decodeTurn · _) hwhole).trans h
  simp only [decodeEngine, hvalid, Bool.true_eq_false, if_false, if_neg htest, hloop]

/-- DECODE ends at the first turn that raises, here the one after the bits `bs`. -/
theorem Decodes.decodeEngine_of_raised {u : State} (hmore : bs.length < s.blen.toNat)
    (hturn : decodeTurn (decoding xs bs.length i s) = .raised u) : decodeEngine s = u := by
  have htest : ¬ (startDecode s).blen.toNat > (startDecode s).cfg.bitsMax := not_lt.2 hlen
  have hloop : Pass.loop decodeTurn (startDecode s).blen.toNat (startDecode s) = .raised u := by
    obtain ⟨n, hn⟩ := Nat.exists_eq_add_of_lt hmore
    rw [show (startDecode s).blen.toNat = bs.length + (n + 1) from hn, Pass.loop_add _ _ _ _ _ h, Pass.loop, hturn]
  simp only [decodeEngine, hvalid, Bool.true_eq_false, if_false, if_neg htest, hloop]

end Command

/-- On a symbol boundary the length is written. -/
theorem finishDecode_at_root (xs : List Nat) (n : Nat) (s : State) :
    finishDecode (decoding xs n s.root s) = { decoding xs n s.root s with olen := wordOf xs.length } :=
  if_pos rfl

/-- Inside a code the stream is malformed. -/
theorem finishDecode_inside {s : State} {i : Word} (hi : i ≠ s.root) (xs : List Nat) (n : Nat) :
    finishDecode (decoding xs n i s) =
      raise Instr.decode.opc .malformedStream 2#4 s.blen 0 (decoding xs n i s) :=
  if_neg hi

/-- Settles O52: each path puts the symbol of its leaf into OUT, and the stream ends with the cursor at the root. -/
theorem decodeOfWholePathsGivesTheSymbols : Obligations.DecodeOfWholePathsGivesTheSymbols := by
  unfold Obligations.DecodeOfWholePathsGivesTheSymbols
  intro s ls ps hclear hvalid hinv htwo hls hps hbits hlen hroom
  obtain ⟨hblen, hholds⟩ := hbits
  have hcodes := (hinv.tree hvalid).decodes_codes htwo hls hps hholds hroom
  have hengine := hcodes.decodeEngine_of_whole hvalid (hblen ▸ hlen) hblen
  refine ⟨_, exec_decode_clear hclear, ?_⟩
  rw [hengine, finishDecode_at_root]
  exact ⟨congrArg wordOf (List.length_map _), rfl, s.out.holdsThen_writeRun _, rfl⟩

/-- Settles O53: the bits after the whole paths leave the cursor at an internal node below the root. -/
theorem truncatedStreamIsMalformed : Obligations.TruncatedStreamIsMalformed := by
  unfold Obligations.TruncatedStreamIsMalformed
  intro s ls ps q i hclear hvalid hinv htwo hls hps hne hq hleaf hbits hlen hroom
  obtain ⟨hblen, hholds⟩ := hbits
  have htree := hinv.tree hvalid
  have hroot := htree.root_toNat
  have hbelow : i.toNat + q.length ≤ s.root.toNat := htree.follow_le (by omega) hq
  have hpos := List.length_pos_of_ne_nil hne
  have hinside : i ≠ s.root := fun h => by rw [h] at hbelow; omega
  have hstream := (htree.decodes_codes htwo hls hps hholds.of_append hroom).append_path (nleaf_ne_one htwo) hholds hq
    (htree.read (by omega)) hleaf
  have hengine := hstream.decodeEngine_of_whole hvalid (hblen ▸ hlen) hblen
  refine ⟨_, exec_decode_clear hclear, ?_⟩
  rw [hengine, finishDecode_inside hinside]
  exact ⟨rfl, rfl, rfl, s.out.holdsThen_writeRun _, rfl⟩

/-- Settles O54: every 0 bit emits the root's symbol. -/
theorem singleSymbolDecodesOneSymbolPerZero : Obligations.SingleSymbolDecodesOneSymbolPerZero := by
  unfold Obligations.SingleSymbolDecodesOneSymbolPerZero
  intro s nd k hclear hvalid hone hroot hbits hlen hroom
  obtain ⟨hblen, hholds⟩ := hbits
  have hk : s.blen.toNat = k := hblen.trans List.length_replicate
  have hengine := (decodes_replicate_false hone hroot hholds hroom).decodeEngine_of_whole hvalid (hk ▸ hlen) hblen
  refine ⟨_, exec_decode_clear hclear, ?_⟩
  rw [hengine, finishDecode_at_root]
  exact ⟨congrArg wordOf List.length_replicate, rfl, s.out.holdsThen_writeRun _, rfl⟩

/-- Settles O55: the turn at the 1 bit raises. -/
theorem oneBitUnderSingleSymbolTreeIsMalformed : Obligations.OneBitUnderSingleSymbolTreeIsMalformed := by
  unfold Obligations.OneBitUnderSingleSymbolTreeIsMalformed
  intro s nd j hclear hvalid hone hroot hholds hmore hlen hroom
  obtain ⟨hzeros, hbit⟩ := hholds.of_append_singleton
  have hstream := decodes_replicate_false hone hroot hzeros hroom
  have hengine := hstream.decodeEngine_of_raised hvalid hlen (by rwa [List.length_replicate])
    (decodeTurn_single_one hone hbit rfl)
  refine ⟨_, exec_decode_clear hclear, ?_⟩
  rw [hengine, List.length_replicate]
  exact ⟨rfl, rfl, rfl, s.out.holdsThen_writeRun _, rfl⟩

/-- Settles O56: the turn at the last bit of the code, or at the 0 bit, finds OUT full and raises. -/
theorem symbolBeyondOutIsCapacityExceeded : Obligations.SymbolBeyondOutIsCapacityExceeded := by
  unfold Obligations.SymbolBeyondOutIsCapacityExceeded
  refine ⟨fun s ls ps l p hclear hvalid hinv htwo hls hl hps hp hholds hmore hlen hfull => ?tree,
    fun s nd hclear hvalid hone hroot hholds hmore hlen => ?single⟩
  case tree =>
    have htree := hinv.tree hvalid
    have hmany := nleaf_ne_one htwo
    have hcodes := htree.decodes_codes htwo hls hps hholds.of_append hfull.le
    obtain ⟨q, b, j, rfl, hq, hstep, hbit⟩ :=
      hcodes.exists_last_step hmany (htree.rootPath_ne_nil htwo hl hp) hholds hp
    have hlast : (ps.flatten ++ (q ++ [b])).length = (ps.flatten ++ q).length + 1 := by
      rw [← List.append_assoc, List.length_append, List.length_singleton]
    rw [hlast] at hmore ⊢
    have hengine := hq.decodeEngine_of_raised hvalid hlen hmore
      (decodeTurn_tree_full hmany hbit hstep (htree.read_leaf htwo hl) (htree.leaf_of_lt hl)
        ((List.length_map _).trans hfull))
    refine ⟨_, exec_decode_clear hclear, ?_⟩
    rw [hengine]
    exact ⟨rfl, rfl, rfl, s.out.holdsThen_writeRun _, rfl⟩
  case single =>
    rw [List.replicate_succ'] at hholds
    obtain ⟨hzeros, hbit⟩ := hholds.of_append_singleton
    have hstream := decodes_replicate_false hone hroot hzeros le_rfl
    have hengine := hstream.decodeEngine_of_raised hvalid hlen (by rwa [List.length_replicate])
      (decodeTurn_single_full hone hbit hroot rfl List.length_replicate)
    refine ⟨_, exec_decode_clear hclear, ?_⟩
    rw [hengine, List.length_replicate]
    exact ⟨rfl, rfl, rfl, s.out.holdsThen_writeRun _, rfl⟩

end Sys2Proof.Machine
end

section
/-! PROOF. O31, O32 and O33: the control commands are accepted in every state, so each is one update and the answer. -/

namespace Sys2Proof.Machine

/-! ### The commands, latched or not (R175) -/

theorem exec_nop (s : State) : exec .nop s = .next (answerWrite s) := rfl

theorem exec_clrerr (s : State) : exec .clrerr s = .next (answerWrite (clearErr s)) := rfl

theorem exec_clear (s : State) : exec .clear s = .next (answerWrite (clearBlock s)) := rfl

/-! ### CLEAR (R178) -/

/-- The table that CLEAR leaves is the empty one. -/
theorem read_clearBlock (s : State) (x : Nat) :
    (clearBlock s).freq.read x = if x < s.cfg.nsymv then some 0 else none := Memory.read_filled _ _ _

/-- Settles O31: there is no update before the answer. -/
theorem nopDoesNothing : Obligations.NopDoesNothing := by
  unfold Obligations.NopDoesNothing
  exact exec_nop

/-- Settles O32: the update is the return from an error, which writes the latch alone. -/
theorem clrerrClearsTheLatchOnly : Obligations.ClrerrClearsTheLatchOnly := by
  unfold Obligations.ClrerrClearsTheLatchOnly
  exact exec_clrerr

/-- Settles O33: the table reads as filled with 0, and the other fields are those of the update. -/
theorem clearResetsRegistersAndFreq : Obligations.ClearResetsRegistersAndFreq := by
  unfold Obligations.ClearResetsRegistersAndFreq
  intro s
  have hzero : ∀ x, x < s.cfg.nsymv → (answerWrite (clearBlock s)).freq.read x = some 0 := fun x hx =>
    (read_clearBlock s x).trans (if_pos hx)
  exact ⟨answerWrite (clearBlock s), exec_clear s, hzero, rfl⟩

end Sys2Proof.Machine
end

section
/-! PROOF. O47 and O57: the codes of a table belong to different leaves, so none begins another, and a text that has
been counted, built into a tree and encoded is decoded to itself. -/

namespace Sys2Proof.Machine

/-! ### The leaf of a code (R52, R187) -/

/-- `c`, the code of symbol `x`, is that of leaf `l`: "0" for the only leaf, else the path to it. -/
structure LeafCode (s : State) (x : Nat) (c : Code) (l : Nat) : Prop where
  lt : l < leaves s
  sym : (nodeAt s l).sym = x
  single : leaves s = 1 → c = [false]
  path : 2 ≤ leaves s → follow s.node s.root c = some (wordOf l)

/-- Under R52 every code is that of a leaf. -/
theorem CodeInv.exists_leafCode {s : State} (h : CodeInv s) (hcodes : s.codesValid = true) {x : Nat} {c : Code}
    (hc : s.code.read x = some c) : ∃ l, LeafCode s x c l := by
  obtain ⟨-, hsymbols, hleaves⟩ := h hcodes
  obtain ⟨l, hl, hsym⟩ := hsymbols (x, c) (Memory.mem_of_read hc)
  obtain ⟨-, -, -, hone, htwo⟩ := hleaves l hl
  have hread : codeOfLeaf s l = some c := by rw [codeOfLeaf, hsym, hc]
  simp only [hread, Option.some.injEq, Option.getD_some] at hone htwo
  exact ⟨l, hl, hsym, hone, htwo⟩

/-- A path to a leaf begins no path to another leaf, since no path goes on at a leaf. -/
theorem Tree.leaf_eq_of_prefix {s : State} (h : Tree s) (htwo : 2 ≤ leaves s) {l k : Nat} {p q : List Bool}
    (hl : l < leaves s) (hk : k < leaves s) (hp : follow s.node s.root p = some (wordOf l))
    (hq : follow s.node s.root q = some (wordOf k)) (hpq : p <+: q) : l = k := by
  obtain ⟨r, rfl⟩ := hpq
  obtain ⟨j, hj, hjk⟩ := follow_append_eq_some.1 hq
  obtain rfl := Option.some.inj (hp.symm.trans hj)
  obtain ⟨-, heq⟩ := follow_of_leaf (h.read_leaf htwo hl) (h.leaf_of_lt hl) hjk
  calc l = (wordOf l).toNat := (h.wordOf_toNat (by omega)).symm
    _ = (wordOf k).toNat := by rw [heq]
    _ = k := h.wordOf_toNat (by omega)

/-- Settles O47: different symbols have different leaves, and the path to a leaf begins no other path to a leaf. -/
theorem codesArePrefixFree : Obligations.CodesArePrefixFree := by
  unfold Obligations.CodesArePrefixFree
  intro s x y c d htree hinv hcodes hne hc hd hprefix
  obtain ⟨l, hl⟩ := hinv.exists_leafCode hcodes hc
  obtain ⟨k, hk⟩ := hinv.exists_leafCode hcodes hd
  obtain ⟨hvalid, -⟩ := hinv hcodes
  have hlt := hl.lt
  have hkt := hk.lt
  have hsame : l = k := by
    rcases Nat.lt_or_ge (leaves s) 2 with hone | htwo
    · omega
    · exact (htree.tree hvalid).leaf_eq_of_prefix htwo hlt hkt (hl.path htwo) (hk.path htwo) hprefix
  exact hne (hl.sym.symm.trans (hsame ▸ hk.sym))

/-! ### What every command of the pipeline leaves unchanged -/

/-- The parameters, the source text and the error latch are unchanged. -/
structure KeepsText (s t : State) : Prop where
  cfg : t.cfg = s.cfg
  text : t.text = s.text
  tlen : t.tlen = s.tlen
  err : t.err = s.err

theorem KeepsText.trans {s t u : State} (h : KeepsText s t) (h' : KeepsText t u) : KeepsText s u :=
  ⟨h'.cfg.trans h.cfg, h'.text.trans h.text, h'.tlen.trans h.tlen, h'.err.trans h.err⟩

theorem KeepsText.clear {s t : State} (h : KeepsText s t) (hclear : s.err.code = 0#4) : t.err.code = 0#4 := by
  rw [h.err, hclear]

theorem KeepsText.textIs {s t : State} (h : KeepsText s t) {xs : List Nat} (htext : TextIs s xs) : TextIs t xs := by
  rwa [TextIs, h.text, h.tlen]

/-! ### The table of a text (R113) -/

section Table
variable {s : State} {xs : List Nat} (hxs : ∀ x ∈ xs, x < s.cfg.nsymv)
  (hfreq : ∀ x, x < s.cfg.nsymv → s.freq.read x = some (xs.count x))
include hfreq

theorem freqDefined_of_counts : FreqDefined s := fun x hx => by rw [hfreq x hx]; rfl

include hxs

/-- The symbols present in the table of a text are the symbols of the text. -/
theorem mem_present_of_counts {x : Nat} : x ∈ present s ↔ x ∈ xs := by
  have hcount : x < s.cfg.nsymv → (freqAt s x ≠ 0 ↔ x ∈ xs) := fun hx => by
    rw [freqAt, hfreq x hx, Option.getD_some, ← Nat.pos_iff_ne_zero, List.count_pos_iff]
  rw [List.mem_filter, List.mem_range, bne_iff_ne]
  exact ⟨fun ⟨hx, hne⟩ => (hcount hx).1 hne, fun h => ⟨hxs x h, (hcount (hxs x h)).2 h⟩⟩

/-- There are as many of them as the text has distinct symbols. -/
theorem length_present_of_counts : (present s).length = xs.dedup.length := by
  refine List.Perm.length_eq ((List.perm_ext_iff_of_nodup (List.nodup_range.filter _) xs.nodup_dedup).2 fun x => ?_)
  rw [List.mem_dedup, mem_present_of_counts hxs hfreq]

end Table

/-! ### From the text to its codes -/

/-- BUILD of a table within capacity leaves a tree with a leaf for every symbol present (R122). -/
theorem exec_build_of_present {s : State} (hc : s.cfg.Valid) (hclear : s.err.code = 0#4) (hdef : FreqDefined s)
    (hpos : 1 ≤ (present s).length) (hmax : (present s).length ≤ s.cfg.maxLeaf) (hsum : freqSum s ≤ s.cfg.wmax) :
    ∃ t, exec .build s = .next t ∧ KeepsText s t ∧ t.treeValid = true ∧ TreeInv t ∧
      ∀ x ∈ present s, ∃ l, l < leaves t ∧ (nodeAt t l).sym = x := by
  obtain ⟨t, ht, hvalid, -, hnleaf, -, -, -, -, -, hleaves, hframe⟩ :=
    buildCompletesWithATree s _ hclear hdef rfl hpos hmax hsum
  have hinv : TreeInv t := by
    obtain rfl := Host.Outcome.next.inj ((exec_build_clear hclear).symm.trans ht)
    exact buildEngine_treeInv hc
  have hcount : leaves t = (present s).length := by
    rw [leaves, hnleaf]
    exact wordOf_toNat ((hmax.trans (maxLeaf_le_of_valid hc)).trans_lt (by decide))
  have hkeeps : KeepsText s t := by constructor <;> rw [hframe]
  refine ⟨t, ht, hkeeps, hvalid, hinv, fun x hx => ?_⟩
  obtain ⟨l, hl⟩ := List.mem_iff_getElem?.1 hx
  exact ⟨l, hcount ▸ (List.getElem?_eq_some_iff.1 hl).1, by rw [nodeAt_of_read (hleaves l x hl)]⟩

/-- The block has a tree and a code for every symbol of `xs`. -/
structure Coded (s : State) (xs : List Nat) : Prop where
  codesValid : s.codesValid = true
  treeInv : TreeInv s
  codeInv : CodeInv s
  codes : ∀ x ∈ xs, (s.code.read x).isSome = true

/-- GENCODES gives a code to every symbol that has a leaf (R145). -/
theorem exec_gencodes_of_tree {s : State} {xs : List Nat} (hc : s.cfg.Valid) (hclear : s.err.code = 0#4)
    (hvalid : s.treeValid = true) (hinv : TreeInv s) (hxs : ∀ x ∈ xs, ∃ l, l < leaves s ∧ (nodeAt s l).sym = x) :
    ∃ t, exec .gencodes s = .next t ∧ KeepsText s t ∧ Coded t xs := by
  obtain ⟨u, hu⟩ := hinv.exists_gencodesEngine
  have ht := exec_gencodes_clear hclear hu
  have hframe := gencodesEngine_frame hvalid hu
  have hcodes : u.codesValid = true := congrArg State.codesValid hframe
  have hnode : u.node = s.node := (congrArg State.node hframe :)
  have hleaves : leaves u = leaves s := (congrArg leaves hframe :)
  have hcodeInv : CodeInv u := gencodesEngine_codeInv hinv hvalid hu
  have hkeeps : KeepsText s (answerWrite u) := by constructor <;> rw [hframe] <;> rfl
  refine ⟨_, ht, hkeeps, hcodes, exec_keeps_treeInv hc hinv ht, hcodeInv, fun x hx => ?_⟩
  obtain ⟨l, hl, rfl⟩ := hxs x hx
  obtain ⟨-, -, hall⟩ := hcodeInv hcodes
  obtain ⟨hsome, -⟩ := hall l (hleaves ▸ hl)
  rwa [codeOfLeaf, nodeAt, hnode] at hsome

/-! ### From the codes back to the text -/

/-- The codes of a text are those of the leaves of its symbols. -/
theorem CodeInv.exists_leaves {s : State} (h : CodeInv s) (hcodes : s.codesValid = true) (xs : List Nat)
    {cs : List Code} (hread : xs.map s.code.read = cs.map some) :
    ∃ ls : List Nat, (∀ l ∈ ls, l < leaves s) ∧ ls.map (fun l => (nodeAt s l).sym) = xs ∧
      (leaves s = 1 → ∀ c ∈ cs, c = [false]) ∧
      (2 ≤ leaves s → cs.map (follow s.node s.root) = ls.map fun l => some (wordOf l)) := by
  induction xs generalizing cs with
  | nil =>
    obtain rfl : cs = [] := List.map_eq_nil_iff.1 hread.symm
    exact ⟨[], by simp⟩
  | cons x xs ih =>
    cases cs with
    | nil => cases hread
    | cons c cs =>
      obtain ⟨hc, hcs⟩ := List.cons.inj hread
      obtain ⟨l, hl⟩ := h.exists_leafCode hcodes hc
      obtain ⟨ls, hls, hsyms, hone, htwo⟩ := ih hcs
      refine ⟨l :: ls, List.forall_mem_cons.2 ⟨hl.lt, hls⟩, ?syms, fun h1 => ?single, fun h2 => ?paths⟩
      case syms => rw [List.map_cons, hl.sym, hsyms]
      case single => exact List.forall_mem_cons.2 ⟨hl.single h1, hone h1⟩
      case paths => rw [List.map_cons, List.map_cons, hl.path h2, htwo h2]

/-- The only leaf is the root. -/
theorem Tree.read_only_leaf {s : State} (h : Tree s) (hone : leaves s = 1) :
    s.node.read s.root.toNat = some (nodeAt s 0) := by
  rw [h.root_toNat, hone]
  exact h.read (by omega)

theorem flatten_of_zeros {cs : List Code} (h : ∀ c ∈ cs, c = [false]) :
    cs.flatten = List.replicate cs.length false :=
  (congrArg List.flatten (List.eq_replicate_of_mem h)).trans List.flatten_replicate_singleton

/-- DECODE of the codes of a text gives the text: under the single-symbol tree a symbol for every "0" (R165), else the
symbol of the leaf for every path (R164). -/
theorem exec_decode_of_codes {s : State} {xs : List Nat} {cs : List Code} (hclear : s.err.code = 0#4)
    (hcoded : Coded s xs) (hread : xs.map s.code.read = cs.map some) (hbits : BitsAre s cs.flatten)
    (hlen : cs.flatten.length ≤ s.cfg.bitsMax) (hroom : xs.length ≤ s.cfg.outMax) :
    ∃ t, exec .decode s = .next t ∧ t.olen = wordOf xs.length ∧ Holds t.out xs ∧ KeepsText s t := by
  obtain ⟨hcodes, htree, hinv, -⟩ := hcoded
  obtain ⟨hvalid, -⟩ := hinv hcodes
  obtain ⟨⟨hpos, -⟩, -⟩ := htree hvalid
  obtain ⟨ls, hls, rfl, hone, htwo⟩ := hinv.exists_leaves hcodes xs hread
  rw [List.length_map] at hroom ⊢
  rcases hpos.eq_or_lt with h1 | h2
  · have hcount : cs.length = ls.length := by simpa using (congrArg List.length hread).symm
    have hflat := flatten_of_zeros (hone h1.symm)
    have hsyms : ls.map (fun l => (nodeAt s l).sym) = List.replicate ls.length (nodeAt s 0).sym := by
      refine List.map_eq_replicate_iff.2 fun l hl => ?_
      have hzero : l = 0 := by have hlt := hls l hl; omega
      rw [hzero]
    rw [hflat, hcount] at hbits hlen
    obtain ⟨t, ht, holen, -, ⟨hout, -⟩, hframe⟩ := singleSymbolDecodesOneSymbolPerZero s _ _ hclear hvalid
      (BitVec.eq_of_toNat_eq h1.symm) ((htree.tree hvalid).read_only_leaf h1.symm) hbits
      (List.length_replicate.symm.trans_le hlen) hroom
    exact ⟨t, ht, holen, hsyms ▸ hout, by constructor <;> rw [hframe]⟩
  · obtain ⟨t, ht, holen, -, ⟨hout, -⟩, hframe⟩ :=
      decodeOfWholePathsGivesTheSymbols s ls cs hclear hvalid htree h2 hls (htwo h2) hbits hlen hroom
    exact ⟨t, ht, holen, hout, by constructor <;> rw [hframe]⟩

/-- ENCODE of a text and DECODE of what it wrote restore the text. -/
theorem exec_decode_after_encode {s : State} {xs : List Nat} {cs : List Code} (hc : s.cfg.Valid)
    (hclear : s.err.code = 0#4) (hcoded : Coded s xs) (htext : TextIs s xs) (hlen : xs.length ≤ s.cfg.textMax)
    (hread : xs.map s.code.read = cs.map some) (hfits : cs.flatten.length ≤ s.cfg.bitsMax)
    (hroom : xs.length ≤ s.cfg.outMax) :
    ∃ t u, exec .encode s = .next t ∧ exec .decode t = .next u ∧ u.olen = wordOf xs.length ∧ Holds u.out xs ∧
      KeepsText s u := by
  obtain ⟨hcodes, htree, hinv, hsome⟩ := hcoded
  obtain ⟨t, ht, hblen, ⟨hbits, -⟩, hframe⟩ :=
    encodeConcatenatesTheCodes s xs cs hclear hcodes htext hlen hread hfits
  have hkeeps : KeepsText s t := by constructor <;> rw [hframe]
  have hcode : t.code = s.code := (congrArg State.code hframe :)
  have hcoded : Coded t xs :=
    { codesValid := (congrArg State.codesValid hframe).trans hcodes
      treeInv := exec_keeps_treeInv hc htree ht
      codeInv := exec_keeps_codeInv htree hinv ht
      codes := hcode ▸ hsome }
  have hsmall : cs.flatten.length < 2 ^ 32 := by
    obtain ⟨-, -, -, -, ⟨-, hmax⟩, -⟩ := hc
    omega
  have hbitsAre : BitsAre t cs.flatten := ⟨by rw [hblen]; exact wordOf_toNat hsmall, hbits⟩
  obtain ⟨u, hu, holen, hout, hkeeps'⟩ := exec_decode_of_codes (hkeeps.clear hclear) hcoded (hcode ▸ hread) hbitsAre
    (hkeeps.cfg ▸ hfits) (hkeeps.cfg ▸ hroom)
  exact ⟨t, u, ht, hu, holen, hout, hkeeps.trans hkeeps'⟩

/-! ### The round trip (R186) -/

/-- COUNT, BUILD and GENCODES of a text within capacity leave a code for every symbol of it. -/
theorem exec_codes_of_text {s : State} {xs : List Nat} (hc : s.cfg.Valid) (hclear : s.err.code = 0#4)
    (htext : TextIs s xs) (hpos : 1 ≤ xs.length) (hlen : xs.length ≤ s.cfg.textMax)
    (hxs : ∀ x ∈ xs, x < s.cfg.nsymv) (hmax : xs.dedup.length ≤ s.cfg.maxLeaf) :
    ∃ t1 t2 t3, exec .count s = .next t1 ∧ exec .build t1 = .next t2 ∧ exec .gencodes t2 = .next t3 ∧
      KeepsText s t3 ∧ Coded t3 xs := by
  obtain ⟨t1, h1, hfreq, hsum, hframe⟩ := countCountsEverySymbol s xs hclear htext hlen hxs
  have hkeeps1 : KeepsText s t1 := by constructor <;> rw [hframe]
  have hwmax : xs.length ≤ s.cfg.wmax := by
    obtain ⟨-, -, -, ⟨-, htextMax, -⟩, -⟩ := hc
    exact hlen.trans htextMax
  rw [← hkeeps1.cfg] at hc hxs hfreq hmax hwmax
  have hpresent := length_present_of_counts hxs hfreq
  have hdedup : 1 ≤ xs.dedup.length :=
    List.length_pos_of_ne_nil (mt (List.dedup_eq_nil xs).1 (List.ne_nil_of_length_pos hpos))
  obtain ⟨t2, h2, hkeeps2, hvalid, hinv, hleaves⟩ := exec_build_of_present hc (hkeeps1.clear hclear)
    (freqDefined_of_counts hfreq) (hpresent ▸ hdedup) (hpresent ▸ hmax) (hsum ▸ hwmax)
  have hkeeps := hkeeps1.trans hkeeps2
  obtain ⟨t3, h3, hkeeps3, hcoded⟩ := exec_gencodes_of_tree (hkeeps2.cfg ▸ hc) (hkeeps.clear hclear) hvalid hinv
    fun x hx => hleaves x ((mem_present_of_counts hxs hfreq).2 hx)
  exact ⟨t1, t2, t3, h1, h2, h3, hkeeps.trans hkeeps3, hcoded⟩

/-- The code of `x`, empty where it has none. -/
def codeOr (s : State) (x : Nat) : Code := (s.code.read x).getD []

theorem Coded.map_read {s : State} {xs : List Nat} (h : Coded s xs) :
    xs.map s.code.read = (xs.map (codeOr s)).map some := by
  rw [List.map_map]
  refine List.map_congr_left fun x hx => ?_
  obtain ⟨c, hc⟩ := Option.isSome_iff_exists.1 (h.codes x hx)
  simp [codeOr, hc]

theorem length_flatten_codeOr (s : State) (xs : List Nat) :
    (xs.map (codeOr s)).flatten.length = (xs.map fun x => ((s.code.read x).getD []).length).sum := by
  rw [List.length_flatten, List.map_map]; rfl

/-- Settles O57: the first three commands leave the codes of the text, and DECODE reads back what ENCODE writes. -/
theorem roundTripRestoresTheText : Obligations.RoundTripRestoresTheText := by
  unfold Obligations.RoundTripRestoresTheText
  intro s xs hc hclear htext hpos hlen hroom hxs hmax
  obtain ⟨t1, t2, t3, h1, h2, h3, hkeeps, hcoded⟩ := exec_codes_of_text hc hclear htext hpos hlen hxs hmax
  refine ⟨t1, t2, t3, h1, h2, h3, hcoded.codes, fun hfits => ?_⟩
  rw [← length_flatten_codeOr, ← hkeeps.cfg] at hfits
  rw [← hkeeps.cfg] at hc hlen hroom
  obtain ⟨t4, t5, h4, h5, holen, hout, hkeeps'⟩ := exec_decode_after_encode hc (hkeeps.clear hclear) hcoded
    (hkeeps.textIs htext) hlen hcoded.map_read hfits hroom
  have hall := hkeeps.trans hkeeps'
  exact ⟨t4, t5, h4, h5, hall.clear hclear, hall.tlen, holen.trans (wordOf_of_toNat htext.1).symm, hout, hall.text⟩

end Sys2Proof.Machine
end

section
/-! PROOF. O8, O9: what a command latches. Each engine leaves the latch or raises one of the causes of its own command in
R202; without its tree or code table it raises before it writes anything. -/

namespace Sys2Proof.Machine

/-! ### The causes of each command (R202) -/

/-- The codes and sub-codes a command can raise (R202). -/
def causesOf : Instr → List (BitVec 4 × BitVec 4)
  | .nop | .clrerr | .clear => []
  | .count => [(5#4, 1#4)]
  | .build => [(1#4, 0#4), (5#4, 2#4), (5#4, 3#4)]
  | .gencodes => [(4#4, 0#4)]
  | .encode => [(4#4, 0#4), (5#4, 1#4), (2#4, 0#4), (5#4, 4#4)]
  | .decode => [(4#4, 0#4), (5#4, 1#4), (3#4, 1#4), (3#4, 2#4), (5#4, 5#4)]

/-- The latch holds a cause of command `i`, with its opcode (R209). -/
def RaisedBy (i : Instr) (e : ErrLatch) : Prop := e.op = i.opc ∧ (e.code, e.sub) ∈ causesOf i

/-- Raising a cause of a command inside that command (R209). -/
theorem raisedBy_raise {i : Instr} {k : ErrKind} {b : BitVec 4} (h : (k.code, b) ∈ causesOf i) (p : Word) (x : Nat)
    (s : State) : RaisedBy i (raise i.opc k b p x s).err := ⟨rfl, h⟩

/-- A raised error is in a list of rows if the causes of its command, with the command's opcode, are. -/
theorem RaisedBy.mem_rows {i : Instr} {e : ErrLatch} (h : RaisedBy i e) {rows : List (BitVec 4 × BitVec 4 × BitVec 8)}
    (hrows : ∀ c ∈ causesOf i, (c.1, c.2, i.opc) ∈ rows) : (e.code, e.sub, e.op) ∈ rows := by
  obtain ⟨hop, hcause⟩ := h
  rw [hop]; exact hrows _ hcause

/-! ### What each engine can do to the latch -/

theorem buildEngine_err (s : State) : (buildEngine s).err = s.err ∨ RaisedBy .build (buildEngine s).err := by
  rcases buildEngine_cases s with ⟨-, hop, hcause⟩ | ⟨-, hb, -⟩
  · refine .inr ⟨hop, ?_⟩
    rcases hcause with ⟨hc, hb⟩ | ⟨hc, hb⟩ | ⟨hc, hb⟩ <;> simp [causesOf, hc, hb]
  · exact .inl (congrArg State.err hb :)

theorem gencodesEngine_err {s t : State} (h : gencodesEngine s = some t) :
    t.err = s.err ∨ RaisedBy .gencodes t.err := by
  rcases gencodesEngine_cases h with ⟨-, rfl⟩ | ⟨-, hg⟩
  · exact .inr (raisedBy_raise (by decide) _ _ _)
  · exact .inl (congrArg State.err hg :)

theorem encodeEngine_err (s : State) : (encodeEngine s).err = s.err ∨ RaisedBy .encode (encodeEngine s).err := by
  rcases encodeEngine_cases s with ⟨-, he⟩ | ⟨-, -, hop, hcause⟩ | ⟨-, he⟩
  · rw [he]; exact .inr (raisedBy_raise (by decide) _ _ _)
  · refine .inr ⟨hop, ?_⟩
    rcases hcause with ⟨hc, hb⟩ | ⟨hc, hb⟩ | ⟨hc, hb⟩ <;> simp [causesOf, hc, hb]
  · exact .inl (congrArg State.err he :)

theorem decodeEngine_err (s : State) : (decodeEngine s).err = s.err ∨ RaisedBy .decode (decodeEngine s).err := by
  rcases decodeEngine_cases s with ⟨-, hd⟩ | ⟨-, -, hop, hcause⟩ | ⟨-, hd⟩
  · rw [hd]; exact .inr (raisedBy_raise (by decide) _ _ _)
  · refine .inr ⟨hop, ?_⟩
    rcases hcause with ⟨hc, hb⟩ | ⟨hc, hb⟩ | ⟨hc, hb⟩ | ⟨hc, hb⟩ <;> simp [causesOf, hc, hb]
  · exact .inl (congrArg State.err hd :)

/-- Everything a command can do to the latch: nothing, or clear it, or, where no error is latched, raise one of its own
causes. -/
theorem exec_err {i : Instr} {s t : State} (h : exec i s = .next t) :
    t.err = s.err ∨ t.err = ErrLatch.none ∨ (s.err.code = 0#4 ∧ t.resp = okWrite ∧ RaisedBy i t.err) := by
  rcases exec_cases h with ⟨-, rfl⟩ | ⟨-, rfl⟩ | ⟨-, rfl⟩ | ⟨-, -, rfl⟩ |
    ⟨hclear, ⟨rfl, rfl⟩ | ⟨rfl, rfl⟩ | ⟨rfl, u, hu, rfl⟩ | ⟨rfl, rfl⟩ | ⟨rfl, rfl⟩⟩
  · exact .inl rfl
  · exact .inr (.inl rfl)
  · exact .inr (.inl rfl)
  · exact .inl rfl
  · refine (countEngine_err s).imp id fun he => .inr ⟨hclear, rfl, ?_⟩
    rw [answerWrite_err, he]; exact raisedBy_raise (by decide) _ _ _
  · exact (buildEngine_err s).imp id fun hr => .inr ⟨hclear, rfl, hr⟩
  · exact (gencodesEngine_err hu).imp id fun hr => .inr ⟨hclear, rfl, hr⟩
  · exact (encodeEngine_err s).imp id fun hr => .inr ⟨hclear, rfl, hr⟩
  · exact (decodeEngine_err s).imp id fun hr => .inr ⟨hclear, rfl, hr⟩

/-- Settles O8: a latch that is neither kept nor cleared holds a cause of the command. -/
theorem raisedErrorsAreTheRowsOfTheTable : Obligations.RaisedErrorsAreTheRowsOfTheTable := by
  unfold Obligations.RaisedErrorsAreTheRowsOfTheTable
  intro i s t h hne hl
  rcases exec_err h with hkept | hnone | ⟨hclear, hresp, hraised⟩
  · exact absurd (congrArg ErrLatch.code hkept) hne
  · exact absurd (congrArg ErrLatch.code hnone) hl
  · refine ⟨hclear, hresp, hraised.1, hraised.mem_rows ?_⟩
    cases i <;> simp [causesOf, Instr.opc]

/-! ### A missing prerequisite (R141, R151, R161) -/

/-- Without a tree GENCODES raises before it clears the table. -/
theorem gencodesEngine_of_noTree {s : State} (h : s.treeValid = false) :
    gencodesEngine s = some (raise Instr.gencodes.opc .notReady 0#4 0#32 0 s) := if_pos h

/-- Without codes ENCODE raises before it clears `BLEN`. -/
theorem encodeEngine_of_noCodes {s : State} (h : s.codesValid = false) :
    encodeEngine s = raise Instr.encode.opc .notReady 0#4 0#32 0 s := if_pos h

/-- Without a tree DECODE raises before it moves the cursor. -/
theorem decodeEngine_of_noTree {s : State} (h : s.treeValid = false) :
    decodeEngine s = raise Instr.decode.opc .notReady 0#4 0#32 0 s := if_pos h

/-- Settles O9: the flag is tested before anything is written. -/
theorem missingPrerequisiteIsNotReady : Obligations.MissingPrerequisiteIsNotReady := by
  unfold Obligations.MissingPrerequisiteIsNotReady
  refine fun s hclear => ⟨fun htree => ?gencodes, fun hcodes => ?encode, fun htree => ?decode⟩
  case gencodes => exact exec_gencodes_clear hclear (gencodesEngine_of_noTree htree)
  case encode => rw [exec_encode_clear hclear, encodeEngine_of_noCodes hcodes]; rfl
  case decode => rw [exec_decode_clear hclear, decodeEngine_of_noTree htree]; rfl

end Sys2Proof.Machine
end

section
/-! PROOF. O6 and O22: the host port while an error is latched, and a block that nobody asks anything of. A transaction
that neither shows the latch nor is a command does the same whatever the latch holds. -/

namespace Sys2Proof.Machine

/-- The same state with another latch. -/
def relatch (e : ErrLatch) (s : State) : State := { s with err := e }

/-- What a read returns, with another latch in the state after it. -/
def relatchRead {α : Type} (e : ErrLatch) (d : α × State) : α × State := (d.1, relatch e d.2)

section Relatch
variable (e : ErrLatch) (s : State)

/-! ### A read of `DATA` does not depend on the latch (R63 to R69) -/

@[simp] theorem relatch_cfg : (relatch e s).cfg = s.cfg := rfl
@[simp] theorem relatch_idx : (relatch e s).idx = s.idx := rfl
@[simp] theorem relatch_sub : (relatch e s).sub = s.sub := rfl
@[simp] theorem relatch_nnode : (relatch e s).nnode = s.nnode := rfl
@[simp] theorem relatch_treeValid : (relatch e s).treeValid = s.treeValid := rfl
@[simp] theorem relatch_codesValid : (relatch e s).codesValid = s.codesValid := rfl
@[simp] theorem relatch_node : (relatch e s).node = s.node := rfl
@[simp] theorem relatch_code : (relatch e s).code = s.code := rfl

theorem readElem_relatch {α : Type} (m : Memory α) (free : Word → α) (k : Nat) :
    readElem m free k (relatch e s) = relatchRead e (readElem m free k s) := by
  unfold readElem; split <;> rfl

theorem readNode_relatch (k : Nat) : readNode k (relatch e s) = relatchRead e (readNode k s) := by
  simp only [readNode, relatch_node, relatch_cfg]; split <;> rfl

theorem dataNode_relatch : dataNode (relatch e s) = relatchRead e (dataNode s) := by
  simp only [dataNode, readNode_relatch, relatch_treeValid, relatch_idx, relatch_nnode, relatch_sub]
  split <;> rfl

theorem dataCodelen_relatch : dataCodelen (relatch e s) = relatchRead e (dataCodelen s) := by
  by_cases hcodes : s.codesValid
  · simp only [dataCodelen, lookupCode, relatch_codesValid, relatch_idx, relatch_code, hcodes, if_true]
    cases s.code.read s.idx.toNat <;> rfl
  · simp only [dataCodelen, relatch_codesValid, hcodes]; rfl

theorem dataCodebit_relatch : dataCodebit (relatch e s) = relatchRead e (dataCodebit s) := by
  by_cases hcodes : s.codesValid
  · simp only [dataCodebit, lookupCode, relatch_codesValid, relatch_idx, relatch_code, relatch_sub, hcodes, if_true]
    cases s.code.read s.idx.toNat with
    | none => rfl
    | some ds => dsimp only; cases ds[s.sub.toNat]? <;> rfl
  · simp only [dataCodebit, relatch_codesValid, hcodes]; rfl

theorem spaceRead_relatch (sp : Space) : spaceRead sp (relatch e s) = relatchRead e (spaceRead sp s) := by
  cases sp with
  | freq => exact congrArg (fun d => (wordOf d.1, d.2)) (readElem_relatch e s s.freq _ _)
  | text => exact congrArg (fun d => (wordOf d.1, d.2)) (readElem_relatch e s s.text _ _)
  | bits => exact congrArg (fun d => (wordOf d.1.toNat, d.2)) (readElem_relatch e s s.bits _ _)
  | out => exact congrArg (fun d => (wordOf d.1, d.2)) (readElem_relatch e s s.out _ _)
  | node => exact dataNode_relatch e s
  | codelen => exact dataCodelen_relatch e s
  | codebit => exact dataCodebit_relatch e s

theorem dataSpace_relatch : dataSpace (relatch e s) = dataSpace s := rfl

theorem dataRead_relatch : dataRead (relatch e s) = (dataRead s).map (relatchRead e) := by
  rw [dataRead_eq, dataRead_eq, dataSpace_relatch, Option.map_map]
  exact Option.map_congr fun sp _ => spaceRead_relatch e s sp

/-! ### Transactions that do not depend on the latch (R211) -/

/-- The registers that show the latch: STATUS, ERR, ERRPOS and ERRSYM (R23 to R26). -/
def latchRegs : List Reg := [.status, .err, .errpos, .errsym]

theorem offset_of_latchRegs : ∀ r ∈ latchRegs, r.offset ∈ [0x04, 0x08, 0x0C, 0x10] := by decide

/-- A read of a register that does not show the latch does the same whatever the latch holds. -/
theorem regRead_relatch {r : Reg} (hr : r ∉ latchRegs) :
    regRead r (relatch e s) = (regRead r s).map (relatchRead e) := by
  cases r with
  | status | err | errpos | errsym => exact absurd (by decide) hr
  | data => exact dataRead_relatch e s
  | cmd | tlen | blen | olen | nleaf | nnode | root | cur | sel | idx | sub => rfl

theorem dataStore_relatch (sp : Space) (v : Word) :
    dataStore sp v (relatch e s) = relatch e (dataStore sp v s) := by cases sp <;> rfl

theorem dataWrite_relatch (v : Word) : dataWrite v (relatch e s) = (dataWrite v s).map (relatch e) := by
  simp only [dataWrite, dataSpace_relatch, relatch_cfg, dataStore_relatch]
  cases dataSpace s with
  | none => rfl
  | some sp =>
    dsimp only
    cases sp.writeLimit s.cfg with
    | none => rfl
    | some n => dsimp only; split <;> rfl

/-- A write of a register other than `CMD` does the same whatever the latch holds. -/
theorem regWrite_relatch (r : Reg) (v : Word) :
    regWrite r v (relatch e s) = (regWrite r v s).map (relatch e) := by
  cases r with
  | data => exact dataWrite_relatch e s v
  | _ => rfl

/-- A read that reaches no register showing the latch does the same whatever the latch holds. -/
theorem hostRead_relatch {off width : Nat} (h : ∀ r ∈ latchRegs, Reg.at off width ≠ some r) :
    hostRead off width (relatch e s) = relatch e (hostRead off width s) := by
  unfold hostRead
  cases hat : Reg.at off width with
  | none => rfl
  | some r =>
    have hr : r ∉ latchRegs := fun hmem => h r hmem hat
    simp only [regRead_relatch e s hr]
    cases regRead r s <;> rfl

theorem hostWriteReg_relatch (r : Reg) (v : Word) :
    hostWriteReg r v (relatch e s) = relatch e (hostWriteReg r v s) := by
  simp only [hostWriteReg, regWrite_relatch]
  cases regWrite r v s <;> rfl

/-- A write that is no access of `CMD` completes, and does the same whatever the latch holds. -/
theorem hostWrite_relatch {run : Instr → State → Result} {off width : Nat} (v : Word)
    (h : Reg.at off width ≠ some .cmd) :
    ∃ t, hostWrite run off width v s = .next t ∧ hostWrite run off width v (relatch e s) = .next (relatch e t) := by
  cases hat : Reg.at off width with
  | none => exact ⟨refuseWrite s, by simp only [hostWrite, hat], by simp only [hostWrite, hat]; rfl⟩
  | some r =>
    have hr : r ≠ .cmd := fun hcmd => h (hcmd ▸ hat)
    obtain ⟨rfl, rfl⟩ := Reg.at_eq_some.1 hat
    exact ⟨_, hostWrite_offset hr, by rw [hostWrite_offset hr, hostWriteReg_relatch]⟩

end Relatch

/-! ### Transactions while an error is latched (R211) -/

/-- Settles O6: the acceptance test refuses, the three commands do not take it, and no other transaction looks at the
latch but to show it. -/
theorem latchedErrorRefusesAllCommandWritesButThree : Obligations.LatchedErrorRefusesAllCommandWritesButThree := by
  unfold Obligations.LatchedErrorRefusesAllCommandWritesButThree
  refine ⟨fun s v es hl h hv => ?refused, fun s es _ => ⟨fun h => ?nop, fun h => ?clrerr, fun h => ?clear⟩,
    fun s e off width es h hoff => ?read, fun s off es h hoff => ?shown, fun s e off width v es h hoff => ?write⟩
  case refused => rw [step_cmd_write h]; exact command_refused hl hv
  case nop => rw [step_cmd_write h]; exact command_of_decode (decodeWord_encode .nop)
  case clrerr => rw [step_cmd_write h]; exact command_of_decode (decodeWord_encode .clrerr)
  case clear =>
    rw [step_cmd_write h]
    exact ⟨_, command_of_decode (decodeWord_encode .clear), rfl, rfl⟩
  case read =>
    have hat : ∀ r ∈ latchRegs, Reg.at off width ≠ some r := fun r hr hat => by
      obtain ⟨rfl, rfl⟩ := Reg.at_eq_some.1 hat
      exact hoff.elim (fun hne => hne (offset_of_latchRegs r hr)) (absurd rfl)
    refine ⟨_, step_event h, (step_event (s := relatch e s) h).trans ?_⟩
    exact congrArg _ (hostRead_relatch e { s with host := es } hat)
  case shown =>
    simp only [List.mem_cons, List.not_mem_nil, or_false] at hoff
    rcases hoff with rfl | rfl | rfl | rfl
    · exact ⟨_, step_read .status h rfl⟩
    · exact ⟨_, step_read .err h rfl⟩
    · exact ⟨_, step_read .errpos h rfl⟩
    · exact ⟨_, step_read .errsym h rfl⟩
  case write =>
    have hat : Reg.at off width ≠ some .cmd := fun hat => by
      obtain ⟨rfl, rfl⟩ := Reg.at_eq_some.1 hat
      exact hoff.elim (absurd rfl) (absurd rfl)
    obtain ⟨t, ht, ht'⟩ := hostWrite_relatch (run := exec) e { s with host := es } v hat
    exact ⟨t, (step_event h).trans ht, (step_event (s := relatch e s) h).trans ht'⟩

/-! ### A block that nobody asks anything of (R219) -/

/-- Settles O22: a step takes the next event, and there is none. -/
theorem idleBlockKeepsItsState : Obligations.IdleBlockKeepsItsState := by
  unfold Obligations.IdleBlockKeepsItsState
  exact fun s => step_idle

end Sys2Proof.Machine
end
